-- ==== Sys2Proof/Word.lean ====
section
/-! DEFINITION. The word types of the block: a sample byte and a 32-bit register word (00_scope.md R5, R6). -/

namespace Sys2Proof

/-- One unsigned 8-bit sample, or one 8-bit channel (R32, R88). -/
abbrev Byte := BitVec 8

/-- One 32-bit host register, address or pixel word (R5 `REG_W`, R33). -/
abbrev Word := BitVec 32

end Sys2Proof
end

