-- ==== Sys2Proof/Config.lean ====
section
/-! DEFINITION. What an instance of the block fixes (R5, R36), and the free values: values the spec leaves open and
nothing in Lean can evaluate. -/

namespace Sys2Proof.Config

/-- `DIM_MAX`, the largest legal WIDTH and HEIGHT (R5): the model is fixed at the spec's default.
DESIGN CHOICE (log entry 11): R5 lets an instance choose any value from 4 to 32767. -/
def dimMax : Nat := 32767

/-- FREE VALUE (log entry 6): what the byte of FB at an address nothing has written reads as. It depends on the address
alone, because FB is plain memory and reading an address again returns the same byte (R55). -/
opaque unwrittenFrameByte : Nat → Byte

/-- FREE VALUE (log entry 7): what the `n`-th unspecified host read of PG returns (R65, R221). -/
opaque freeWord : Nat → Word

/-- FREE VALUE (log entry 30): how the `n`-th open choice between two words of PG falls, where the order of pixel steps
decides it (R64, R65, R222). -/
opaque freeChoice : Nat → Bool

end Sys2Proof.Config
end

