-- ==== Sys2Proof/Syntax.lean ====
section
/-! DEFINITION. The operations of the block, one constructor per row of spec/opcode_table.json, and the three kinds of
word an operation is decoded from (30_encoding.md R80, R81, R83, R90). -/

namespace Sys2Proof

/-- The operations: the two host register accesses, the three host commands and the sixteen micro-operations. -/
inductive Instr where
  /-- `RD`: read the register at byte offset `offset` of space REG (R115). -/
  | rd (offset : Nat)
  /-- `WR`: write `data` to the register at byte offset `offset` of space REG (R116). -/
  | wr (offset : Nat) (data : Word)
  /-- `NOP`: a CTRL write with `d[1:0] = 0`; `reserved` is `d[31:2]` (R110). -/
  | nop (reserved : BitVec 30)
  /-- `START`: a CTRL write with `d[0] = 1`; `clearBit` is `d[1]`, which START ignores (R111). -/
  | start (clearBit : Bool) (reserved : BitVec 30)
  /-- `CLEAR`: a CTRL write with `d[1:0] = 2` (R112). -/
  | clear (reserved : BitVec 30)
  /-- `XY_SPLIT`, id 0 (R130). -/
  | xySplit
  /-- `LUMA_ADDR`, id 1 (R131). -/
  | lumaAddr
  /-- `LUMA_LD`, id 2 (R132). -/
  | lumaLd
  /-- `CHROMA_ADDR`, id 3 (R133). -/
  | chromaAddr
  /-- `CHROMA_LD`, id 4 (R134). -/
  | chromaLd
  /-- `CHROMA_SPLIT`, id 5 (R135). -/
  | chromaSplit
  /-- `CENTER`, id 6 (R136). -/
  | center
  /-- `MAC_R`, id 7 (R151). -/
  | macR
  /-- `MAC_G`, id 8 (R152). -/
  | macG
  /-- `MAC_B`, id 9 (R153). -/
  | macB
  /-- `TRUNC`, id 10 (R170). -/
  | trunc
  /-- `CLAMP`, id 11 (R171). -/
  | clamp
  /-- `PACK`, id 12 (R173). -/
  | pack
  /-- `PIX_ST`, id 13 (R174). -/
  | pixSt
  /-- `ADVANCE`, id 14 (R175). -/
  | advance
  /-- `FINISH`, id 15 (R176). -/
  | finish
  deriving DecidableEq, Repr

/-- The three formats an operation is encoded in (R80). The formats CW and PW of R80 are data formats. -/
inductive Format where
  | bus
  | ctrl
  | uop
  deriving DecidableEq, Repr

/-- A word an operation is decoded from, in its own format: the three formats have separate places in the machine, so
a word always comes with its format (log entry 18). -/
inductive InstrWord where
  /-- Format BUS: the 4-bit header of a host access to REG, and the 32 data bits that follow it on a write (R80, R81). -/
  | bus (header : BitVec 4) (data : Word)
  /-- Format CTRL: the data of a write to register CTRL (R82). -/
  | ctrl (data : Word)
  /-- Format UOP: the sequencer's micro-operation selector (R90). -/
  | uop (id : BitVec 4)
  deriving DecidableEq, Repr

end Sys2Proof
end

