-- ==== Sys2Proof/Machine/State.lean ====
section
/-! DEFINITION. The state of the machine as plain data: the block CORE (10_state.md R20, R22, R27, R30), the two
memories it touches (R32, R33), and the inputs the outside world has queued (00_scope.md R9). Every way a step stops. -/

namespace Sys2Proof.Machine

/-- STATUS.STATE, the block's only status indication and its only mode (R24, R84). -/
inductive Status where
  | idle
  | busy
  | done
  | error
  deriving DecidableEq, Repr

/-- ERRCODE.CODE (R28, R85). The code 3 is never produced, so it has no constructor. -/
inductive ErrCode where
  | noError
  | invalidDimensions
  | sizeMismatch
  deriving DecidableEq, Repr

/-- What the outside world does at the block's other ports. None of these is an operation of the opcode table: they are
the host's own moves (R9, R94), and the reset input (R220). -/
inductive HostEvent where
  /-- The host writes the bytes to FB at `addr`, `addr + 1`, ... (`FBW` of R94). -/
  | fbWrite (addr : Nat) (bytes : List Byte)
  /-- The host reads one byte of FB (R59). -/
  | fbRead (addr : Nat)
  /-- The host reads one entry of PG (`PGR` of R94). -/
  | pgRead (index : Nat)
  /-- The host writes one entry of PG (R65). -/
  | pgWrite (index : Nat) (value : Word)
  /-- The input `rst` is asserted and released (R220). -/
  | reset
  deriving DecidableEq, Repr

/-- One entry of the order in which the two agents take steps (R59): a host access to REG, another host event, or
CORE's turn. Which agent moves next is this plain data, not a choice of the step (log entry 2). -/
inductive Move where
  /-- A host access to REG, as the bus carries it (R81). -/
  | bus (header : BitVec 4) (data : Word)
  /-- A host write to CTRL, as the command decoder sees it: its 32 data bits (R83; log entry 20). -/
  | ctrl (data : Word)
  /-- CORE's turn: the CORE step that is enabled, if one is (R179). -/
  | core
  /-- Another event of the outside world. -/
  | event (e : HostEvent)
  deriving DecidableEq, Repr

/-- What the step finds to do. -/
inductive Fetched where
  /-- An operation's word. -/
  | word (w : InstrWord)
  /-- An event of the outside world. -/
  | event (e : HostEvent)
  /-- Nothing: no CORE step is enabled, and the block waits for the host (R179; log entry 3). -/
  | wait
  deriving DecidableEq, Repr

/-- The datapath registers of R30: the temporaries of one pixel step, at the widths R30 gives them. -/
structure Datapath where
  /-- pixel column -/
  x : BitVec 15
  /-- pixel row -/
  y : BitVec 15
  /-- byte address of the luma sample in FB -/
  la : Word
  /-- luma sample -/
  yv : Byte
  /-- chroma word index -/
  ci : Word
  /-- byte address of the chroma word in FB -/
  ca : Word
  /-- chroma word -/
  cw : BitVec 16
  /-- raw U byte -/
  ub : Byte
  /-- raw V byte -/
  vb : Byte
  /-- centred U, signed -/
  u : BitVec 8
  /-- centred V, signed -/
  v : BitVec 8
  /-- channel R before truncation, an exact rational -/
  rv : Rat
  /-- channel G before truncation, an exact rational -/
  gv : Rat
  /-- channel B before truncation, an exact rational -/
  bv : Rat
  /-- truncated channel R, signed -/
  ri : BitVec 11
  /-- truncated channel G, signed -/
  gi : BitVec 11
  /-- truncated channel B, signed -/
  bi : BitVec 11
  /-- clamped channel R -/
  r8 : Byte
  /-- clamped channel G -/
  g8 : Byte
  /-- clamped channel B -/
  b8 : Byte
  /-- pixel word -/
  pw : Word
  deriving DecidableEq, Repr

/-- The machine's state. CTRL holds nothing (R23) and has no field. -/
structure State where
  /-- STATUS.STATE (R24) -/
  status : Status
  /-- WIDTH (R25) -/
  width : Word
  /-- HEIGHT (R25) -/
  height : Word
  /-- BUFLEN (R26) -/
  buflen : Word
  /-- ERRCODE.CODE (R28) -/
  errCode : ErrCode
  /-- ERR_ACTUAL (R29) -/
  errActual : Word
  /-- ERR_EXPECTED (R29) -/
  errExpected : Word
  /-- the pixel counter `P` (R27) -/
  p : Word
  /-- the sequencer's 4-bit micro-operation selector (R80, R90) -/
  uop : BitVec 4
  /-- the datapath registers (R30) -/
  dp : Datapath
  /-- the frame buffer FB (R32): address and byte, addresses strictly rising -/
  fb : List Host.Cell
  /-- the pixel grid PG (R33): entry and pixel word, entries strictly rising -/
  pg : List (Nat × Word)
  /-- the model's own field: PG as it would stand had the conversion under way stored no pixel, the previous words of R222
  (log entry 30) -/
  pgBefore : List (Nat × Word)
  /-- the model's own field: the pixels whose step a host write in BUSY has put before itself in the order of steps, which
  is open (R178); their entries are decided (R64, R65; log entry 30) -/
  settled : List Nat
  /-- the moves still to come, next first; when it is empty every turn is CORE's (R180) -/
  moves : List Move
  /-- the model's own field: the value the host's last read returned, none before the first read (R115, R94;
  log entry 13) -/
  hostRead : Option Word
  /-- the model's own field: how many free values have been drawn (log entry 7) -/
  draws : Nat
  deriving DecidableEq, Repr

/-- Why the machine stops with a fault. All of them are safe: the model stops where the spec gives no effect. -/
inductive Fault where
  /-- Raised by a micro-operation that runs while its step is not enabled (R176, R177): the spec gives it no effect there.
  The sequencer never does this (R179). Safe. -/
  | microOpNotEnabled
  /-- Raised by LUMA_LD and CHROMA_LD for an address at or above BUFLEN: those bytes are not of the frame buffer (R26).
  No conversion forms such an address (R137). Safe. -/
  | frameBufferReadOutOfRange
  /-- Raised by PIX_ST and by a host access for an entry at or above 2^30, which PG does not have (R33). No conversion
  forms such an index (R138). Safe. -/
  | noSuchPixelGridEntry
  /-- Raised by a host access to FB that reaches 2^32, past every length BUFLEN can state (R26). Safe. -/
  | noSuchFrameBufferAddress
  deriving DecidableEq, Repr

/-- Why the machine gives an operation no meaning. -/
inductive Refusal where
  /-- Raised by `exec` for an operation that has no meaning yet; no arm of this model raises it. Safe. -/
  | notModelled (mnemonic : String)
  /-- Raised by RD and WR for an offset that is none of the eight: the port has no such access (R21, U14). Safe. -/
  | noSuchRegister
  deriving DecidableEq, Repr

/-- The datapath registers after reset. The spec leaves them unspecified (R35): zero is a DESIGN CHOICE (log entry 5). -/
def Datapath.reset : Datapath :=
  { x := 0, y := 0, la := 0, yv := 0, ci := 0, ca := 0, cw := 0, ub := 0, vb := 0, u := 0, v := 0,
    rv := 0, gv := 0, bv := 0, ri := 0, gi := 0, bi := 0, r8 := 0, g8 := 0, b8 := 0, pw := 0 }

/-- The state right after reset (R35, R220), nothing written to either memory and no move queued. The spec leaves `P` and
the datapath registers unspecified: their zeros, and the selector's, are a DESIGN CHOICE (log entry 5), as are the values of
the model's own fields (log entries 2, 7, 13 and 30). -/
def State.reset : State :=
  { status := .idle, width := 0, height := 0, buflen := 0, errCode := .noError, errActual := 0, errExpected := 0,
    p := 0, uop := 0, dp := Datapath.reset, fb := [], pg := [], pgBefore := [], settled := [],
    moves := [], hostRead := none, draws := 0 }

/-! ## Updates of one field, or of the error registers together -/

def State.setStatus (s : State) (v : Status) : State := { s with status := v }
def State.setWidth (s : State) (v : Word) : State := { s with width := v }
def State.setHeight (s : State) (v : Word) : State := { s with height := v }
def State.setBuflen (s : State) (v : Word) : State := { s with buflen := v }
def State.setErrors (s : State) (code : ErrCode) (actual expected : Word) : State :=
  { s with errCode := code, errActual := actual, errExpected := expected }
def State.setP (s : State) (v : Word) : State := { s with p := v }
def State.setUop (s : State) (v : BitVec 4) : State := { s with uop := v }
def State.setDp (s : State) (v : Datapath) : State := { s with dp := v }
def State.setFb (s : State) (v : List Host.Cell) : State := { s with fb := v }
def State.setPg (s : State) (v : List (Nat × Word)) : State := { s with pg := v }
def State.setPgBefore (s : State) (v : List (Nat × Word)) : State := { s with pgBefore := v }
def State.setSettled (s : State) (v : List Nat) : State := { s with settled := v }
def State.setMoves (s : State) (v : List Move) : State := { s with moves := v }
def State.setHostRead (s : State) (v : Option Word) : State := { s with hostRead := v }
def State.setDraws (s : State) (v : Nat) : State := { s with draws := v }

end Sys2Proof.Machine
end

