-- ==== Sys2Proof/Machine/Ops.lean ====
section
/-! DEFINITION. The named operations over the memories and registers: reading and writing a memory in its canonical form,
the frame buffer as CORE and the host see it, the pixel grid, and the entry into and exit from ERROR. -/

namespace Sys2Proof.Machine

/-! ## A memory: keys strictly rising, an unlisted key holds no defined value -/

/-- What a memory holds at a key, none where nothing has been written. -/
def Memory.read {α : Type} (m : List (Nat × α)) (a : Nat) : Option α :=
  match m with
  | [] => none
  | (k, v) :: rest => if k = a then some v else Memory.read rest a

/-- Write one key, keeping the keys in rising order (R56). -/
def Memory.write {α : Type} (m : List (Nat × α)) (a : Nat) (v : α) : List (Nat × α) :=
  match m with
  | [] => [(a, v)]
  | (k, w) :: rest =>
    if a < k then (a, v) :: (k, w) :: rest
    else if a = k then (a, v) :: rest
    else (k, w) :: Memory.write rest a v

/-- Write values at successive keys. -/
def Memory.writeList {α : Type} (m : List (Nat × α)) (a : Nat) (vs : List α) : List (Nat × α) :=
  match vs with
  | [] => m
  | v :: rest => Memory.writeList (Memory.write m a v) (a + 1) rest

/-- Forget every key below `n`. -/
def Memory.dropBelow {α : Type} (m : List (Nat × α)) (n : Nat) : List (Nat × α) :=
  match m with
  | [] => []
  | (k, v) :: rest => if k < n then Memory.dropBelow rest n else (k, v) :: Memory.dropBelow rest n

/-- Write at every key `i` below `n` for which `f i` gives a value. -/
def Memory.fillBelow {α : Type} (m : List (Nat × α)) (n : Nat) (f : Nat → Option α) : List (Nat × α) :=
  match n with
  | 0 => m
  | k + 1 =>
    match f k with
    | none => Memory.fillBelow m k f
    | some v => Memory.write (Memory.fillBelow m k f) k v

/-- `m` with what it holds at every key `i` below `n` replaced by `f i`. -/
def Memory.replaceBelow {α : Type} (m : List (Nat × α)) (n : Nat) (f : Nat → Option α) : List (Nat × α) :=
  Memory.fillBelow (Memory.dropBelow m n) n f

/-- The keys are strictly rising, from `b` on. -/
def Memory.risingFrom {α : Type} (b : Nat) (m : List (Nat × α)) : Bool :=
  match m with
  | [] => true
  | (k, _) :: rest => decide (b ≤ k) && Memory.risingFrom (k + 1) rest

/-- The canonical form: keys strictly rising. An unlisted key holds no defined value, which no listed one equals. -/
def Memory.wf {α : Type} (m : List (Nat × α)) : Bool := Memory.risingFrom 0 m

/-- Every key is below `n`. -/
def Memory.keysBelow {α : Type} (n : Nat) (m : List (Nat × α)) : Bool := m.all (fun c => decide (c.1 < n))

/-- FB has the addresses every BUFLEN can name (R26; log entry 25). -/
def frameBufferEnd : Nat := 2 ^ 32

/-- PG has the entries below 2^30 (R33). -/
def pixelGridEnd : Nat := 2 ^ 30

/-! ## The frame buffer -/

/-- What the byte of FB at an address nothing has written reads as: a free value (R230; log entry 6). -/
def unlistedFrameByte (a : Nat) : Byte := Config.unwrittenFrameByte a

/-- The byte of FB at address `a`: the last one written there (R59). -/
def State.frameByte (s : State) (a : Nat) : Byte := (Memory.read s.fb a).getD (unlistedFrameByte a)

/-- `MemRead(FB, a, 1)` (R8, R52), none for an address that is not of the frame buffer (R26; log entry 16). -/
def State.memRead1 (s : State) (a : Nat) : Option Byte :=
  if a < s.buflen.toNat then some (s.frameByte a) else none

/-- `MemRead(FB, a, 2)`, little-endian: the byte at the lower address in bits 7:0 (R8, R52). -/
def State.memRead2 (s : State) (a : Nat) : Option (BitVec 16) :=
  if a + 1 < s.buflen.toNat then some (s.frameByte (a + 1) ++ s.frameByte a) else none

/-! ## The pixel grid -/

/-- The step of pixel `i` has its place before a host write made in BUSY, so that its entry is decided (log entry 30). -/
def State.isSettled (s : State) (i : Nat) : Bool := decide (i ∈ s.settled)

/-- Entry `i` of PG, none where no defined value stands (R33, R221). -/
def State.gridEntry (s : State) (i : Nat) : Option Word := Memory.read s.pg i

/-- `MemWrite(PG, i, v)` (R8, R56). -/
def State.memWrite (s : State) (i : Nat) (v : Word) : State := s.setPg (Memory.write s.pg i v)

/-- The store of a pixel step: entry `P` gets the pixel word (R174), unless a host write in BUSY stands after that pixel's
step in the order of steps, where the entry is decided already (R64, R65; log entry 30). -/
def State.storePixel (s : State) : State := if s.isSettled s.p.toNat then s else s.memWrite s.p.toNat s.dp.pw

/-- The byte at `a` of PG laid out in byte-addressed memory: entry `i` takes the bytes `4i .. 4i+3`, least significant
first (R66). -/
def State.gridByte (s : State) (a : Nat) : Option Byte :=
  (s.gridEntry (a / 4)).map (fun w => w.extractLsb' (8 * (a % 4)) 8)

/-! ## Errors -/

/-- `ERRCODE <- 0; ERR_ACTUAL <- 0; ERR_EXPECTED <- 0`, the first line of an accepted START (R111) and of CLEAR (R112). -/
def State.clearErrors (s : State) : State := s.setErrors .noError 0 0

/-- `raise Error(code, actual, expected)`, the block's exception entry (R196): the three error registers and STATE are
written, nothing else; nothing is saved and control goes nowhere. -/
def State.raiseError (s : State) (code : ErrCode) (actual expected : Word) : State :=
  (s.setErrors code actual expected).setStatus .error

/-- The exit from DONE or ERROR to IDLE that CLEAR makes (R112, R198). -/
def State.leaveToIdle (s : State) : State := s.clearErrors.setStatus .idle

end Sys2Proof.Machine
end

