-- ==== Sys2Proof/Machine/Operands.lean ====
section
/-! DEFINITION. Operands: which register an offset names, what a register reads as, and the values a pixel step assembles
from the pixel counter, the dimensions and the chroma word (30_encoding.md R81, R84 to R88, R93). -/

namespace Sys2Proof.Machine

/-! ## Host registers -/

/-- The eight registers of space REG (R22). -/
inductive HostReg where
  | ctrl
  | status
  | width
  | height
  | buflen
  | errCode
  | errActual
  | errExpected
  deriving DecidableEq, Repr

/-- The register at a byte offset (R22, R81), none at any other offset (R21). -/
def hostRegAt (offset : Nat) : Option HostReg :=
  match offset with
  | 0x00 => some .ctrl
  | 0x04 => some .status
  | 0x08 => some .width
  | 0x0C => some .height
  | 0x10 => some .buflen
  | 0x14 => some .errCode
  | 0x18 => some .errActual
  | 0x1C => some .errExpected
  | _ => none

/-- STATUS as a word (R84). -/
def statusWord (st : Status) : Word :=
  match st with
  | .idle => 0
  | .busy => 1
  | .done => 2
  | .error => 3

/-- ERRCODE as a word (R85). -/
def errCodeWord (c : ErrCode) : Word :=
  match c with
  | .noError => 0
  | .invalidDimensions => 1
  | .sizeMismatch => 2

/-- What a register reads as (R115). -/
def State.readReg (s : State) (r : HostReg) : Word :=
  match r with
  | .ctrl => 0
  | .status => statusWord s.status
  | .width => s.width
  | .height => s.height
  | .buflen => s.buflen
  | .errCode => errCodeWord s.errCode
  | .errActual => s.errActual
  | .errExpected => s.errExpected

/-! ## The address calculator, at the widths of R30, which lose nothing in a conversion (R138; log entry 14) -/

/-- `W × H`, the number of pixels and the address of the chroma plane (R51). -/
def State.frameSize (s : State) : Nat := s.width.toNat * s.height.toNat

/-- `x <- P mod W` (R130), in the 15 bits R30 gives `x`. -/
def State.pixelColumn (s : State) : BitVec 15 := (s.p % s.width).setWidth 15

/-- `y <- P / W` (R130), in the 15 bits R30 gives `y`. -/
def State.pixelRow (s : State) : BitVec 15 := (s.p / s.width).setWidth 15

/-- `la <- x + y * W` (R131), in 32-bit unsigned arithmetic, which is exact (R138). -/
def State.lumaAddress (s : State) : Word := s.dp.x.setWidth 32 + s.dp.y.setWidth 32 * s.width

/-- `ci <- x[14:1] + y[14:2] * W` (R133). -/
def State.chromaIndex (s : State) : Word :=
  (s.dp.x.extractLsb' 1 14).setWidth 32 + (s.dp.y.extractLsb' 2 13).setWidth 32 * s.width

/-- `ca <- W * H + ci * 2` (R133). -/
def State.chromaAddress (s : State) : Word := s.width * s.height + s.chromaIndex * 2

/-! ## The chroma upsampler -/

/-- `Ub <- cw[7:0]` (R87, R135). -/
def chromaU (cw : BitVec 16) : Byte := cw.extractLsb' 0 8

/-- `Vb <- cw[15:8]` (R87, R135). -/
def chromaV (cw : BitVec 16) : Byte := cw.extractLsb' 8 8

/-- `b - 128`, as an 8-bit two's-complement pattern (R93, R136). -/
def centre (b : Byte) : BitVec 8 := b - 128

end Sys2Proof.Machine
end

