-- ==== Sys2Proof/Machine/Flags.lean ====
section
/-! DEFINITION. The block has no flag (10_state.md R31). This file holds its comparisons, which are consumed where they
are made: the two checks of START, the two enabling conditions of a CORE step, and the clamp (R140 (e)). -/

namespace Sys2Proof.Machine

/-- `dims_ok(W, H)` for an instance whose largest dimension is `dimMax` (R113). -/
def dimsOk (dimMax w h : Nat) : Bool :=
  (decide (1 ≤ w) && decide (w ≤ dimMax)) && (decide (1 ≤ h) && decide (h ≤ dimMax)) &&
    decide (w % 2 = 0) && decide (h % 4 = 0)

/-- `expected = W × H × 3 / 2` (R114). -/
def expectedSize (w h : Nat) : Nat := w * h * 3 / 2

/-- The dimension check of START on the registers. -/
def State.dimsPass (s : State) : Bool := dimsOk Config.dimMax s.width.toNat s.height.toNat

/-- The size check of START on the registers: BUFLEN equals the expected size (R114). -/
def State.sizePass (s : State) : Bool := decide (s.buflen.toNat = expectedSize s.width.toNat s.height.toNat)

/-- The pixel step is enabled exactly when STATE = BUSY and `P < W × H` (R177). -/
def State.pixelEnabled (s : State) : Bool := decide (s.status = .busy) && decide (s.p.toNat < s.frameSize)

/-- The finish step is enabled exactly when STATE = BUSY and `P = W × H` (R176). -/
def State.finishEnabled (s : State) : Bool := decide (s.status = .busy) && decide (s.p.toNat = s.frameSize)

/-- `clamp(i)`: 0 below 0, 255 above 255, `i` between (R7, R171). -/
def clampChannel (i : Int) : Byte :=
  if i < 0 then 0 else if 255 < i then 255 else BitVec.ofInt 8 i

/-- `trunc(r)`: the integer part with the fraction dropped, toward zero (R7, R170). -/
def truncRat (r : Rat) : Int := r.num.tdiv r.den

/-- A micro-operation of the pixel step: its effect where the pixel step is enabled, and no effect the spec gives
elsewhere (R177; log entry 15). -/
def State.microOp (s : State) (o : Host.Outcome State Fault Refusal) : Host.Outcome State Fault Refusal :=
  if s.pixelEnabled then o else .fault .microOpNotEnabled

end Sys2Proof.Machine
end

