-- ==== Sys2Proof/Machine/ColourMatrix.lean ====
section
/-! DEFINITION. Micro-operations 7, 8 and 9: the three channels of the colour matrix, as exact rationals
(42_colour_matrix.md R150 to R155; log entry 12), and the two integer forms the spec gives beside them (R158, R159; log
entry 28). -/

namespace Sys2Proof.Machine

/-! ## Constants -/

/-- `wr` = 0.299 (R92). -/
def wr : Rat := 299 / 1000
/-- `wb` = 0.114 (R92). -/
def wb : Rat := 114 / 1000
/-- `wg` = `1 − wr − wb`, exactly 587/1000 (R92). -/
def wg : Rat := 1 - wr - wb
/-- `umax` = 0.436 (R92). -/
def umax : Rat := 436 / 1000
/-- `vmax` = 0.615 (R92). -/
def vmax : Rat := 615 / 1000

/-- `kRV` (R150). -/
def kRV : Rat := 701 / 615
/-- `kGU` (R150). -/
def kGU : Rat := 25251 / 63983
/-- `kGV` (R150). -/
def kGV : Rat := 209599 / 361005
/-- `kBU` (R150). -/
def kBU : Rat := 443 / 218

/-! ## The channels -/

/-- `Rv = Yv + V × kRV` (R151). -/
def channelR (yv : Byte) (v : BitVec 8) : Rat := (yv.toNat : Rat) + (v.toInt : Rat) * kRV

/-- `Gv = Yv − U × kGU − V × kGV` (R152). -/
def channelG (yv : Byte) (u v : BitVec 8) : Rat := (yv.toNat : Rat) - (u.toInt : Rat) * kGU - (v.toInt : Rat) * kGV

/-- `Bv = Yv + U × kBU` (R153). -/
def channelB (yv : Byte) (u : BitVec 8) : Rat := (yv.toNat : Rat) + (u.toInt : Rat) * kBU

/-- MAC_R (R151). -/
def execMacR (s : State) : Host.Outcome State Fault Refusal :=
  s.microOp (.next (s.setDp { s.dp with rv := channelR s.dp.yv s.dp.v }))

/-- MAC_G (R152). -/
def execMacG (s : State) : Host.Outcome State Fault Refusal :=
  s.microOp (.next (s.setDp { s.dp with gv := channelG s.dp.yv s.dp.u s.dp.v }))

/-- MAC_B (R153). -/
def execMacB (s : State) : Host.Outcome State Fault Refusal :=
  s.microOp (.next (s.setDp { s.dp with bv := channelB s.dp.yv s.dp.u }))

/-! ## The offset form (R159)

`/` on `Int` with a positive divisor rounds down. -/

/-- `dR(V) = floor(V × 701 / 615)` (R159). -/
def offsetR (v : Int) : Int := v * 701 / 615
/-- `dG(U, V) = floor(−(U × 15529365 + V × 22846291) / 39349545)` (R159). -/
def offsetG (u v : Int) : Int := -(u * 15529365 + v * 22846291) / 39349545
/-- `dB(U) = floor(U × 443 / 218)` (R159). -/
def offsetB (u : Int) : Int := u * 443 / 218

/-! ## The reference fixed-point datapath (R158)

An implementation of R151 to R153 in signed 32-bit accumulators with `FRAC` = 21; no step of the machine uses it. -/

/-- `FRAC`, the fraction bits (R5, R158). -/
def fracBits : Nat := 21

/-- `Yv << 21` (R158). -/
def lumaFixed (yv : Byte) : Word := yv.setWidth 32 <<< fracBits

/-- `accR = (Yv << 21) + V × cRV` (R158). -/
def accR (yv : Byte) (v : BitVec 8) : Word := lumaFixed yv + v.signExtend 32 * 0x24798C

/-- `accG = (Yv << 21) − U × cGU − V × cGV` (R158). -/
def accG (yv : Byte) (u v : BitVec 8) : Word :=
  lumaFixed yv - u.signExtend 32 * 0x0CA0FD - v.signExtend 32 * 0x129444

/-- `accB = (Yv << 21) + U × cBU` (R158). -/
def accB (yv : Byte) (u : BitVec 8) : Word := lumaFixed yv + u.signExtend 32 * 0x41070C

/-- `acc >> 21`, arithmetic (R158). -/
def fixedResult (acc : Word) : Int := (acc.sshiftRight fracBits).toInt

end Sys2Proof.Machine
end

