-- ==== Sys2Proof/Machine/PixelClamper.lean ====
section
/-! DEFINITION. Micro-operations 10, 11 and 12: truncation, clamping and packing (43_clamp_store.md R170, R171, R173). -/

namespace Sys2Proof.Machine

/-- A truncated channel in the 11 signed bits R30 gives it; every channel value fits (R160, R170). -/
def truncChannel (r : Rat) : BitVec 11 := BitVec.ofInt 11 (truncRat r)

/-- `pw <- {0xFF, B8, G8, R8}` (R88, R173). -/
def packPixel (r8 g8 b8 : Byte) : Word := 0xFF#8 ++ (b8 ++ (g8 ++ r8))

/-- TRUNC, the same on each lane (R170). -/
def execTrunc (s : State) : Host.Outcome State Fault Refusal :=
  s.microOp (.next (s.setDp
    { s.dp with ri := truncChannel s.dp.rv, gi := truncChannel s.dp.gv, bi := truncChannel s.dp.bv }))

/-- CLAMP, the same on each lane (R171). -/
def execClamp (s : State) : Host.Outcome State Fault Refusal :=
  s.microOp (.next (s.setDp
    { s.dp with
      r8 := clampChannel s.dp.ri.toInt, g8 := clampChannel s.dp.gi.toInt, b8 := clampChannel s.dp.bi.toInt }))

/-- PACK (R173). -/
def execPack (s : State) : Host.Outcome State Fault Refusal :=
  s.microOp (.next (s.setDp { s.dp with pw := packPixel s.dp.r8 s.dp.g8 s.dp.b8 }))

end Sys2Proof.Machine
end

