-- ==== Sys2Proof/Decode.lean ====
section
/-! DEFINITION. The decoder, total on every word of every format, the encoder, and the opcode table as data
(30_encoding.md R80 to R83, R90, R95; spec/opcode_table.json). -/

namespace Sys2Proof

/-! ## Decoding a word of a format -/

/-- Format BUS (R81): bit 3 is `rw`, bits 2:0 the register's word index, its byte offset divided by 4. A read carries no
data, so the data bits of a read word are not looked at. -/
def decodeBus (header : BitVec 4) (data : Word) : Instr :=
  if header.getLsbD 3 then .wr (4 * (header.extractLsb' 0 3).toNat) data
  else .rd (4 * (header.extractLsb' 0 3).toNat)

/-- Format CTRL (R83): bit 0 is START and has priority, bit 1 is CLEAR, neither is NOP; independent of STATE (R95). -/
def decodeCtrl (data : Word) : Instr :=
  if data.getLsbD 0 then .start (data.getLsbD 1) (data.extractLsb' 2 30)
  else if data.getLsbD 1 then .clear (data.extractLsb' 2 30)
  else .nop (data.extractLsb' 2 30)

/-- Format UOP (R90): all sixteen ids are assigned; the last line is id 15. -/
def decodeUop (id : BitVec 4) : Instr :=
  match id.toNat with
  | 0 => .xySplit
  | 1 => .lumaAddr
  | 2 => .lumaLd
  | 3 => .chromaAddr
  | 4 => .chromaLd
  | 5 => .chromaSplit
  | 6 => .center
  | 7 => .macR
  | 8 => .macG
  | 9 => .macB
  | 10 => .trunc
  | 11 => .clamp
  | 12 => .pack
  | 13 => .pixSt
  | 14 => .advance
  | _ => .finish

/-- The operation a word stands for. No word of a format is reserved (R81, R83, R90), so no word is rejected here. -/
def decode : InstrWord → Instr
  | .bus header data => decodeBus header data
  | .ctrl data => decodeCtrl data
  | .uop id => decodeUop id

/-! ## Decoding any bits -/

/-- Why bits are no word of a format. -/
inductive DecodeReject where
  /-- A bit beyond the format's length is set: formats are of fixed length (R80, R95). -/
  | wordTooWide
  deriving DecidableEq, Repr

/-- The word of format `f` whose bits are `w`, bit 0 first; on format BUS the 32 data bits follow the 4 header bits
(R80; the position of the data bits in one number is a DESIGN CHOICE, log entry 18). -/
def wordOfBits (f : Format) (w : Nat) : Except DecodeReject InstrWord :=
  match f with
  | .bus => if w < 2 ^ 36 then .ok (.bus (BitVec.ofNat 4 w) (BitVec.ofNat 32 (w / 16))) else .error .wordTooWide
  | .ctrl => if w < 2 ^ 32 then .ok (.ctrl (BitVec.ofNat 32 w)) else .error .wordTooWide
  | .uop => if w < 2 ^ 4 then .ok (.uop (BitVec.ofNat 4 w)) else .error .wordTooWide

/-- Decode any bits as a word of format `f`, or reject them by name. -/
def decodeBits (f : Format) (w : Nat) : Except DecodeReject Instr :=
  (wordOfBits f w).map decode

/-- The format a table row's length stands for (log entry 18): 32 bits is format CTRL; 36 bits, 40 in whole bytes, is
format BUS with its data; 4 bits, 8 in whole bytes, is format UOP when the bits above the fourth are 0, else a BUS
header with the low data bits after it. -/
def tableFormat (nbits w : Nat) : Option Format :=
  if nbits = 32 then some .ctrl
  else if nbits = 36 ∨ nbits = 40 then some .bus
  else if nbits = 4 ∨ nbits = 8 then (if w < 16 then some .uop else some .bus)
  else none

/-- The word the host means by the bits `w` of a table row of `nbits` bits. -/
def tableWord (nbits w : Nat) : Option InstrWord :=
  match tableFormat nbits w with
  | none => none
  | some f => (wordOfBits f w).toOption

/-- The operation the decoder reads from a word numbered as spec/opcode_table.json numbers it. -/
def decodeTableWord (nbits w : Nat) : Option Instr :=
  (tableWord nbits w).map decode

/-! ## Encoding -/

/-- The word of a well-formed operation, from R81, R83 and R90. -/
def encode : Instr → InstrWord
  | .rd offset => .bus (BitVec.ofNat 4 (offset / 4)) 0
  | .wr offset data => .bus (BitVec.ofNat 4 (8 + offset / 4)) data
  | .nop reserved => .ctrl (reserved ++ 0#2)
  | .start clearBit reserved => .ctrl (reserved ++ (BitVec.ofBool clearBit ++ 1#1))
  | .clear reserved => .ctrl (reserved ++ 2#2)
  | .xySplit => .uop 0
  | .lumaAddr => .uop 1
  | .lumaLd => .uop 2
  | .chromaAddr => .uop 3
  | .chromaLd => .uop 4
  | .chromaSplit => .uop 5
  | .center => .uop 6
  | .macR => .uop 7
  | .macG => .uop 8
  | .macB => .uop 9
  | .trunc => .uop 10
  | .clamp => .uop 11
  | .pack => .uop 12
  | .pixSt => .uop 13
  | .advance => .uop 14
  | .finish => .uop 15

/-! ## The opcode table as data -/

/-- A row of spec/opcode_table.json: a word of the row's format is the row's when it agrees with `pattern` under `mask`. -/
structure OpcodeRow where
  mnemonic : String
  format : Format
  mask : Nat
  pattern : Nat
  deriving DecidableEq, Repr

/-- The twenty-one rows, in the table's order. -/
def opcodeTable : List OpcodeRow :=
  [⟨"RD", .bus, 0x8, 0x0⟩, ⟨"WR", .bus, 0x8, 0x8⟩,
   ⟨"NOP", .ctrl, 3, 0⟩, ⟨"START", .ctrl, 1, 1⟩, ⟨"CLEAR", .ctrl, 3, 2⟩] ++
  [⟨"XY_SPLIT", .uop, 0xF, 0x0⟩, ⟨"LUMA_ADDR", .uop, 0xF, 0x1⟩, ⟨"LUMA_LD", .uop, 0xF, 0x2⟩,
   ⟨"CHROMA_ADDR", .uop, 0xF, 0x3⟩, ⟨"CHROMA_LD", .uop, 0xF, 0x4⟩, ⟨"CHROMA_SPLIT", .uop, 0xF, 0x5⟩,
   ⟨"CENTER", .uop, 0xF, 0x6⟩, ⟨"MAC_R", .uop, 0xF, 0x7⟩, ⟨"MAC_G", .uop, 0xF, 0x8⟩] ++
  [⟨"MAC_B", .uop, 0xF, 0x9⟩, ⟨"TRUNC", .uop, 0xF, 0xA⟩, ⟨"CLAMP", .uop, 0xF, 0xB⟩, ⟨"PACK", .uop, 0xF, 0xC⟩,
   ⟨"PIX_ST", .uop, 0xF, 0xD⟩, ⟨"ADVANCE", .uop, 0xF, 0xE⟩, ⟨"FINISH", .uop, 0xF, 0xF⟩]

/-- The mnemonic of an operation's row. -/
def Instr.mnemonic : Instr → String
  | .rd _ => "RD"
  | .wr _ _ => "WR"
  | .nop _ => "NOP"
  | .start _ _ => "START"
  | .clear _ => "CLEAR"
  | .xySplit => "XY_SPLIT"
  | .lumaAddr => "LUMA_ADDR"
  | .lumaLd => "LUMA_LD"
  | .chromaAddr => "CHROMA_ADDR"
  | .chromaLd => "CHROMA_LD"
  | .chromaSplit => "CHROMA_SPLIT"
  | .center => "CENTER"
  | .macR => "MAC_R"
  | .macG => "MAC_G"
  | .macB => "MAC_B"
  | .trunc => "TRUNC"
  | .clamp => "CLAMP"
  | .pack => "PACK"
  | .pixSt => "PIX_ST"
  | .advance => "ADVANCE"
  | .finish => "FINISH"

/-- The format of a word. -/
def InstrWord.format : InstrWord → Format
  | .bus _ _ => .bus
  | .ctrl _ => .ctrl
  | .uop _ => .uop

/-- The bits of a word that the table's masks cover: the header, the CTRL data or the id. -/
def InstrWord.opcodeBits : InstrWord → Nat
  | .bus header _ => header.toNat
  | .ctrl data => data.toNat
  | .uop id => id.toNat

/-- Whether a word belongs to a row. -/
def OpcodeRow.matches (r : OpcodeRow) (w : InstrWord) : Bool :=
  decide (r.format = w.format) && decide (w.opcodeBits &&& r.mask = r.pattern)

/-- The mnemonics of the rows a word belongs to. -/
def rowsOf (w : InstrWord) : List String :=
  (opcodeTable.filter (fun r => r.matches w)).map OpcodeRow.mnemonic

end Sys2Proof
end

