-- ==== Sys2Proof/Machine/Command.lean ====
section
/-! DEFINITION. The host commands NOP, START and CLEAR (40_command.md R110, R111, R112). -/

namespace Sys2Proof.Machine

/-- PG as it stands is what the conversion that begins finds, and no pixel is decided yet (log entry 30). -/
def State.openGrid (s : State) : State := (s.setPgBefore s.pg).setSettled []

/-- Begin a conversion: `P <- 0; STATE <- BUSY` (R111), with the sequencer at the first micro-operation of a pixel step
(R177). -/
def State.beginConversion (s : State) : State := (((s.setP 0).setUop 0).setStatus .busy).openGrid

/-- The two checks of START, the dimension check first (R111, R195), in the one step of START (R232; log entry 29). -/
def State.checkAndBegin (s : State) : State :=
  if s.dimsPass then
    if s.sizePass then s.beginConversion
    else s.raiseError .sizeMismatch s.buflen (BitVec.ofNat 32 (expectedSize s.width.toNat s.height.toNat))
  else s.raiseError .invalidDimensions 0 0

/-- START: dropped in BUSY, else the error registers are zeroed and the checks run (R111). -/
def State.startCommand (s : State) : State :=
  if s.status = .busy then s else s.clearErrors.checkAndBegin

/-- CLEAR: DONE and ERROR go to IDLE, elsewhere nothing (R112). -/
def State.clearCommand (s : State) : State :=
  if s.status = .done ∨ s.status = .error then s.leaveToIdle else s

/-- The command a write of `data` to CTRL is (R83, R116). -/
def State.command (s : State) (data : Word) : State :=
  match decodeCtrl data with
  | .start _ _ => s.startCommand
  | .clear _ => s.clearCommand
  | _ => s

/-- NOP changes no state in any STATE (R110). -/
def execNop (s : State) : Host.Outcome State Fault Refusal := .next s

/-- START (R111). -/
def execStart (s : State) : Host.Outcome State Fault Refusal := .next s.startCommand

/-- CLEAR (R112). -/
def execClear (s : State) : Host.Outcome State Fault Refusal := .next s.clearCommand

end Sys2Proof.Machine
end

