-- ==== Sys2Proof/Machine/Registers.lean ====
section
/-! DEFINITION. The two host register accesses RD and WR (40_command.md R115, R116). -/

namespace Sys2Proof.Machine

/-- RD: the register's 32 bits go to the host, and no register changes (R115). An offset that is none of the eight does
not exist on the port (R21, U14; log entry 17). -/
def execRd (offset : Nat) (s : State) : Host.Outcome State Fault Refusal :=
  match hostRegAt offset with
  | none => .refused .noSuchRegister
  | some r => .next (s.setHostRead (some (s.readReg r)))

/-- A write to a register that holds configuration: dropped while STATE is BUSY (R37, R116). -/
def State.writeUnlessBusy (s t : State) : State := if s.status = .busy then s else t

/-- The effect of a register write (R116). -/
def State.writeReg (s : State) (r : HostReg) (data : Word) : State :=
  match r with
  | .ctrl => s.command data
  | .width => s.writeUnlessBusy (s.setWidth data)
  | .height => s.writeUnlessBusy (s.setHeight data)
  | .buflen => s.writeUnlessBusy (s.setBuflen data)
  | .status => s
  | .errCode => s
  | .errActual => s
  | .errExpected => s

/-- WR (R116); an offset that is none of the eight does not exist on the port (R21, U14; log entry 17). -/
def execWr (offset : Nat) (data : Word) (s : State) : Host.Outcome State Fault Refusal :=
  match hostRegAt offset with
  | none => .refused .noSuchRegister
  | some r => .next (s.writeReg r data)

end Sys2Proof.Machine
end

