-- ==== Sys2Proof/Machine/SampleFetch.lean ====
section
/-! DEFINITION. Micro-operations 0 to 6: the address calculator, the two loads and the chroma upsampler
(41_sample_fetch.md R130 to R136). -/

namespace Sys2Proof.Machine

/-- XY_SPLIT: `x <- P mod W; y <- P / W` (R130). -/
def execXySplit (s : State) : Host.Outcome State Fault Refusal :=
  s.microOp (.next (s.setDp { s.dp with x := s.pixelColumn, y := s.pixelRow }))

/-- LUMA_ADDR: `la <- x + y * W` (R131). -/
def execLumaAddr (s : State) : Host.Outcome State Fault Refusal :=
  s.microOp (.next (s.setDp { s.dp with la := s.lumaAddress }))

/-- LUMA_LD: `Yv <- MemRead(FB, la, 1)` (R132). -/
def execLumaLd (s : State) : Host.Outcome State Fault Refusal :=
  s.microOp (match s.memRead1 s.dp.la.toNat with
    | none => .fault .frameBufferReadOutOfRange
    | some b => .next (s.setDp { s.dp with yv := b }))

/-- CHROMA_ADDR: `ci <- x/2 + (y/4) * W; ca <- W * H + ci * 2` (R133). -/
def execChromaAddr (s : State) : Host.Outcome State Fault Refusal :=
  s.microOp (.next (s.setDp { s.dp with ci := s.chromaIndex, ca := s.chromaAddress }))

/-- CHROMA_LD: `cw <- MemRead(FB, ca, 2)` (R134). -/
def execChromaLd (s : State) : Host.Outcome State Fault Refusal :=
  s.microOp (match s.memRead2 s.dp.ca.toNat with
    | none => .fault .frameBufferReadOutOfRange
    | some w => .next (s.setDp { s.dp with cw := w }))

/-- CHROMA_SPLIT: `Ub <- cw[7:0]; Vb <- cw[15:8]` (R135). -/
def execChromaSplit (s : State) : Host.Outcome State Fault Refusal :=
  s.microOp (.next (s.setDp { s.dp with ub := chromaU s.dp.cw, vb := chromaV s.dp.cw }))

/-- CENTER: `U <- Ub - 128; V <- Vb - 128` (R136). -/
def execCenter (s : State) : Host.Outcome State Fault Refusal :=
  s.microOp (.next (s.setDp { s.dp with u := centre s.dp.ub, v := centre s.dp.vb }))

end Sys2Proof.Machine
end

