-- ==== Sys2Proof/Machine/Sequencer.lean ====
section
/-! DEFINITION. Micro-operations 13, 14 and 15, and the sequencer that selects the micro-operations
(43_clamp_store.md R174 to R179). -/

namespace Sys2Proof.Machine

/-- PIX_ST: `MemWrite(PG, P, pw)` (R174), where no host write in BUSY has decided the entry (log entry 30); PG has no entry
at or above 2^30 (R33), and `P` is never there (R27). -/
def execPixSt (s : State) : Host.Outcome State Fault Refusal :=
  s.microOp (if s.p.toNat < pixelGridEnd then .next s.storePixel else .fault .noSuchPixelGridEntry)

/-- ADVANCE: `P <- P + 1` (R175), in raster order (R178; log entry 4). -/
def execAdvance (s : State) : Host.Outcome State Fault Refusal :=
  s.microOp (.next (s.setP (s.p + 1)))

/-- FINISH: `STATE <- DONE`, enabled exactly when STATE = BUSY and `P = W × H` (R176). -/
def execFinish (s : State) : Host.Outcome State Fault Refusal :=
  if s.finishEnabled then .next (s.setStatus .done) else .fault .microOpNotEnabled

/-! ## The sequencer -/

/-- The micro-operation that follows `id`, in the state `id` left: 0 to 14 in order make a pixel step; after it comes the
next pixel step while `P < W × H` and the finish step when `P = W × H` (R90, R177, R179). -/
def State.nextUop (s : State) (id : BitVec 4) : BitVec 4 :=
  if id = 15 then 0
  else if id = 14 then (if s.p.toNat < s.frameSize then 0 else 15)
  else id + 1

/-- What the step adds after an operation: after a micro-operation the selector moves on; after a host access or a
command, nothing. -/
def State.afterWord (s : State) (w : InstrWord) : State :=
  match w with
  | .uop id => s.setUop (s.nextUop id)
  | .bus _ _ => s
  | .ctrl _ => s

/-- A pixel step has begun and not ended: STATE is BUSY and the selector is past 0 and not at the finish step. -/
def State.pixelStepOpen (s : State) : Bool :=
  decide (s.status = .busy) && decide (s.uop ≠ 0) && decide (s.uop ≠ 15)

/-- CORE's turn: the selected micro-operation while STATE is BUSY, nothing elsewhere (R179). -/
def State.coreTurn (s : State) : Fetched := if s.status = .busy then .word (.uop s.uop) else .wait

/-- What the step does next, and the moves then left. A pixel step once begun runs to its end, since it is one
indivisible step of CORE (R59, R177; log entry 1). Between CORE steps the next move decides (log entry 2); with no move
left every turn is CORE's (R180). -/
def State.fetch (s : State) : Fetched × List Move :=
  if s.pixelStepOpen then (.word (.uop s.uop), s.moves)
  else
    match s.moves with
    | [] => (s.coreTurn, [])
    | .core :: ms => (s.coreTurn, ms)
    | .bus header data :: ms => (.word (.bus header data), ms)
    | .ctrl data :: ms => (.word (.ctrl data), ms)
    | .event e :: ms => (.event e, ms)

/-! ## Placing a word where the step fetches it next (log entry 19) -/

/-- Whether the machine stands where the sequencer could select micro-operation `id` and its accesses exist. -/
def State.uopReady (s : State) (id : BitVec 4) : Bool :=
  (if id = 15 then s.finishEnabled else s.pixelEnabled) &&
    (decide (id ≠ 2) || decide (s.dp.la.toNat < s.buflen.toNat)) &&
    (decide (id ≠ 4) || decide (s.dp.ca.toNat + 1 < s.buflen.toNat)) &&
    (decide (id ≠ 13) || decide (s.p.toNat < pixelGridEnd))

/-- A conversion of the smallest legal frame in progress, 2 by 4 (R113): at its first pixel, or past its last one for the
finish step. -/
def State.withSmallFrame (s : State) (id : BitVec 4) : State :=
  { s with status := .busy, width := 2, height := 4, buflen := 12, errCode := .noError, errActual := 0, errExpected := 0,
           p := if id = 15 then 8 else 0, pgBefore := s.pg, settled := [], dp := { s.dp with la := 0, ca := 8 } }

/-- Select micro-operation `id`, and give CORE the next turn. -/
def State.selectUop (s : State) (id : BitVec 4) : State := { s with uop := id, moves := .core :: s.moves }

/-- Queue a host access first, between CORE steps. -/
def State.queueFirst (s : State) (m : Move) : State :=
  { s with uop := if s.pixelStepOpen then 0 else s.uop, moves := m :: s.moves }

/-- The word `w` stored where the next step fetches: a host access or a command first in the queue, a micro-operation in
the selector of a conversion in progress. -/
def State.placeWord (s : State) (w : InstrWord) : State :=
  match w with
  | .bus header data => s.queueFirst (.bus header data)
  | .ctrl data => s.queueFirst (.ctrl data)
  | .uop id => if s.uopReady id then s.selectUop id else (s.withSmallFrame id).selectUop id

end Sys2Proof.Machine
end

