-- ==== Sys2Proof/Machine/Dispatch.lean ====
section
/-! DEFINITION. The one match from an operation to its meaning. -/

namespace Sys2Proof.Machine

def exec (i : Instr) (s : State) : Host.Outcome State Fault Refusal :=
  match i with
  | .rd offset => Sys2Proof.Machine.execRd offset s
  | .wr offset data => Sys2Proof.Machine.execWr offset data s
  | .nop _ => Sys2Proof.Machine.execNop s
  | .start _ _ => Sys2Proof.Machine.execStart s
  | .clear _ => Sys2Proof.Machine.execClear s
  | .xySplit => Sys2Proof.Machine.execXySplit s
  | .lumaAddr => Sys2Proof.Machine.execLumaAddr s
  | .lumaLd => Sys2Proof.Machine.execLumaLd s
  | .chromaAddr => Sys2Proof.Machine.execChromaAddr s
  | .chromaLd => Sys2Proof.Machine.execChromaLd s
  | .chromaSplit => Sys2Proof.Machine.execChromaSplit s
  | .center => Sys2Proof.Machine.execCenter s
  | .macR => Sys2Proof.Machine.execMacR s
  | .macG => Sys2Proof.Machine.execMacG s
  | .macB => Sys2Proof.Machine.execMacB s
  | .trunc => Sys2Proof.Machine.execTrunc s
  | .clamp => Sys2Proof.Machine.execClamp s
  | .pack => Sys2Proof.Machine.execPack s
  | .pixSt => Sys2Proof.Machine.execPixSt s
  | .advance => Sys2Proof.Machine.execAdvance s
  | .finish => Sys2Proof.Machine.execFinish s

end Sys2Proof.Machine
end

