-- ==== Sys2Proof/Machine/Reference.lean ====
section
/-! DEFINITION. The block's function as the spec states it in one place, on natural numbers and exact rationals, with no
register and no step: `pixel(FB, W, H, x, y)` (43_clamp_store.md R177) and the addresses it reads (41_sample_fetch.md R131,
R133). Claims are stated through it. No CORE step uses it; a host write or a reset in BUSY does, for the pixels whose step the
open order of pixel steps (R178) may put before it (Machine/HostPort.lean). -/

namespace Sys2Proof.Machine

/-- The byte address of the luma sample of pixel (x, y) in a frame `w` wide (R131). -/
def lumaAddressAt (w x y : Nat) : Nat := x + y * w

/-- The chroma word index of pixel (x, y) (R133). -/
def chromaIndexAt (w x y : Nat) : Nat := x / 2 + (y / 4) * w

/-- The byte address of the chroma word of pixel (x, y) in a `w` by `h` frame (R133). -/
def chromaAddressAt (w h x y : Nat) : Nat := w * h + chromaIndexAt w x y * 2

/-- The three clamped channels of a pixel (R171). -/
structure Rgb where
  r : Byte
  g : Byte
  b : Byte
  deriving DecidableEq, Repr

/-- The colour of a luma byte and the two raw chroma bytes (R136, R151 to R153, R170, R171). -/
def colourOf (yv ub vb : Byte) : Rgb :=
  { r := clampChannel (truncRat (channelR yv (centre vb)))
    g := clampChannel (truncRat (channelG yv (centre ub) (centre vb)))
    b := clampChannel (truncRat (channelB yv (centre ub))) }

/-- `pixel(FB, W, H, x, y)` (R177). -/
def pixelAt (fb : Nat → Byte) (w h x y : Nat) : Rgb :=
  colourOf (fb (lumaAddressAt w x y)) (fb (chromaAddressAt w h x y)) (fb (chromaAddressAt w h x y + 1))

/-- The pixel word of a colour (R88). -/
def Rgb.word (c : Rgb) : Word := packPixel c.r c.g c.b

/-- The word a conversion of a `w` by `h` frame leaves in entry `i` of PG (R57, R182). -/
def pixelWordAt (fb : Nat → Byte) (w h i : Nat) : Word := (pixelAt fb w h (i % w) (i / w)).word

end Sys2Proof.Machine
end

