-- ==== Sys2Proof/Machine/HostPort.lean ====
section
/-! DEFINITION. What the outside world does beside accesses to REG: the host's accesses to FB and PG, and the reset input
(00_scope.md R9, 20_memory.md R59, R64, R65, 70_reset_and_hazards.md R220 to R222). None is a row of the opcode table.

A host write that meets a conversion is a race: the order of pixel steps is open (43_clamp_store.md R178), so every pixel
the write concerns may have its step before it or after it. A free choice says which, once for each such pixel. A pixel
whose step is before the write is settled: no later step of the conversion changes its entry. Any other pixel has its step
after the write, so that its entry is what that step makes of it (log entry 30). -/

namespace Sys2Proof.Machine

/-! ## The open order of pixel steps -/

/-- The pixel of entry `i` in the frame under way, from the bytes FB holds now (R177). -/
def State.pixelWord (s : State) (i : Nat) : Word := pixelWordAt s.frameByte s.width.toNat s.height.toNat i

/-- The addresses of FB that the step of pixel `i` reads (R131 to R134). -/
def State.pixelReads (s : State) (i : Nat) : List Nat :=
  let w := s.width.toNat
  let ca := chromaAddressAt w s.height.toNat (i % w) (i / w)
  [lumaAddressAt w (i % w) (i / w), ca, ca + 1]

/-- Pixel `i` depends on one of the `n` bytes of FB from `addr` on (R64). -/
def State.pixelDependsOn (s : State) (addr n i : Nat) : Bool :=
  (s.pixelReads i).any (fun a => decide (addr ≤ a) && decide (a < addr + n))

/-- The free choice of pixel `i` at this event. -/
def State.choice (s : State) (i : Nat) : Bool := Config.freeChoice (s.draws + i)

/-- The step of pixel `i` stands before a host write that concerns the pixels `hit`: it stood before an earlier one, or the
write concerns it and the choice falls so. -/
def State.stepIsBefore (s : State) (hit : Nat → Bool) (i : Nat) : Bool := s.isSettled i || (hit i && s.choice i)

/-- The host write is made: the pixels whose step stands before it are settled, and the choices are drawn. -/
def State.settle (s : State) (hit : Nat → Bool) : State :=
  (s.setSettled ((List.range s.frameSize).filter (s.stepIsBefore hit))).setDraws (s.draws + s.frameSize)

/-! ## Host accesses to FB -/

/-- Entry `i` of PG after the host writes bytes that pixels `hit` depend on, `t` being the state with the bytes written: the
pixel of the old bytes where its step stands before the write, else that of the new bytes where its step is done already
(R64, R224; log entry 9). -/
def State.entryAfterFbWrite (s t : State) (hit : Nat → Bool) (i : Nat) : Option Word :=
  if s.isSettled i || !hit i then s.gridEntry i
  else if s.choice i then some (s.pixelWord i)
  else if i < s.p.toNat then some (t.pixelWord i)
  else s.gridEntry i

/-- The bytes are in FB. -/
def State.writeFrame (s : State) (addr : Nat) (bytes : List Byte) : State := s.setFb (Memory.writeList s.fb addr bytes)

/-- A host write to FB in BUSY: every pixel that depends on a written byte is of the old or of the new bytes (R64, R224). -/
def State.raceOnFrame (s : State) (addr : Nat) (bytes : List Byte) : State :=
  let hit := s.pixelDependsOn addr bytes.length
  let t := s.writeFrame addr bytes
  (t.setPg (Memory.replaceBelow s.pg s.frameSize (s.entryAfterFbWrite t hit))).settle hit

/-- A host write of bytes to FB, one host step (R94; log entry 26). The block raises nothing (U6). -/
def State.hostFbWrite (s : State) (addr : Nat) (bytes : List Byte) : Host.Outcome State Fault Refusal :=
  if addr + bytes.length ≤ frameBufferEnd then
    .next (if s.status = .busy then s.raceOnFrame addr bytes else s.writeFrame addr bytes)
  else .fault .noSuchFrameBufferAddress

/-- A host read of one byte of FB: FB is plain memory (R55). -/
def State.hostFbRead (s : State) (addr : Nat) : Host.Outcome State Fault Refusal :=
  if addr < frameBufferEnd then .next (s.setHostRead (some ((s.frameByte addr).setWidth 32)))
  else .fault .noSuchFrameBufferAddress

/-! ## Host accesses to PG -/

/-- An unspecified value is returned to the host: a free value, drawn anew (log entry 7). -/
def State.returnFree (s : State) : State := (s.setHostRead (some (Config.freeWord s.draws))).setDraws (s.draws + 1)

/-- A host read of an entry of PG: unspecified while STATE is BUSY (R65), and for an entry that holds no defined value
(R221); else the entry's word. -/
def State.hostPgRead (s : State) (index : Nat) : Host.Outcome State Fault Refusal :=
  if index < pixelGridEnd then
    if s.status = .busy then .next s.returnFree
    else
      match s.gridEntry index with
      | none => .next s.returnFree
      | some w => .next (s.setHostRead (some w))
  else .fault .noSuchPixelGridEntry

/-- What stands in entry `i` after the host wrote `v` to it in BUSY: `v` where the pixel's step stands before the write or is
still to come, else the pixel, whose step is done and stands after the write (R65; log entry 10). -/
def State.entryAfterPgWrite (s : State) (hit : Nat → Bool) (i : Nat) (v : Word) : Word :=
  if s.stepIsBefore hit i then v else if i < s.p.toNat then s.pixelWord i else v

/-- A host write in BUSY to an entry the conversion fills: the word may survive or be overwritten (R65). It is a word the
conversion finds, too: the previous word of R222. -/
def State.raceOnGrid (s : State) (i : Nat) (v : Word) : State :=
  let hit := fun j => decide (j = i)
  ((s.memWrite i (s.entryAfterPgWrite hit i v)).setPgBefore (Memory.write s.pgBefore i v)).settle hit

/-- A host write to an entry of PG (R65; log entry 10). -/
def State.hostPgWrite (s : State) (index : Nat) (value : Word) : Host.Outcome State Fault Refusal :=
  if index < pixelGridEnd then
    .next (if s.status = .busy ∧ index < s.frameSize then s.raceOnGrid index value else s.memWrite index value)
  else .fault .noSuchPixelGridEntry

/-! ## Reset -/

/-- Entry `i` of an abandoned conversion: decided already where its step is settled, else the converted pixel or the previous
word, by a free choice (R222; log entry 8). -/
def State.entryAfterReset (s : State) (i : Nat) : Option Word :=
  if s.isSettled i then s.gridEntry i
  else if s.choice i then some (s.pixelWord i)
  else Memory.read s.pgBefore i

/-- PG after reset: untouched (R221), but for the entries of a conversion that reset abandons (R222). -/
def State.gridAfterReset (s : State) : List (Nat × Word) :=
  if s.status = .busy then Memory.replaceBelow s.pg s.frameSize s.entryAfterReset else s.pg

/-- How many free values are drawn when reset is over: one for each entry of an abandoned conversion. -/
def State.drawsAfterReset (s : State) : Nat := if s.status = .busy then s.draws + s.frameSize else s.draws

/-- The reset input: the block is in its reset state, FB keeps its bytes, and what is the outside world's stays
(R35, R220, R221; log entry 27). -/
def State.hostReset (s : State) : State :=
  { State.reset with
    fb := s.fb, pg := s.gridAfterReset, moves := s.moves, hostRead := s.hostRead, draws := s.drawsAfterReset }

/-- An event of the outside world. -/
def State.hostEvent (s : State) (e : HostEvent) : Host.Outcome State Fault Refusal :=
  match e with
  | .fbWrite addr bytes => s.hostFbWrite addr bytes
  | .fbRead addr => s.hostFbRead addr
  | .pgRead index => s.hostPgRead index
  | .pgWrite index value => s.hostPgWrite index value
  | .reset => .next s.hostReset

end Sys2Proof.Machine
end

