-- ==== Sys2Proof/Machine/Step.lean ====
section
/-! DEFINITION. One step of the machine: a host access to REG, a command, one micro-operation, another event of the
outside world, or waiting (20_memory.md R59, 43_clamp_store.md R179). -/

namespace Sys2Proof.Machine

/-- What the step adds around an operation that went on. -/
def retire (w : InstrWord) (o : Host.Outcome State Fault Refusal) : Host.Outcome State Fault Refusal :=
  match o with
  | .next t => .next (t.afterWord w)
  | .fault r => .fault r
  | .refused r => .refused r

/-- One step: do what `fetch` finds, with the move it took gone from the queue. -/
def step (s : State) : Host.Outcome State Fault Refusal :=
  match s.fetch.1 with
  | .word w => retire w (exec (decode w) (s.setMoves s.fetch.2))
  | .event e => (s.setMoves s.fetch.2).hostEvent e
  | .wait => .next (s.setMoves s.fetch.2)

/-- `s` with the table word `w` of `nbits` bits placed where the next step fetches it (log entry 19). -/
def State.withFetchWord (s : State) (nbits w : Nat) : State :=
  match tableWord nbits w with
  | none => s
  | some iw => s.placeWord iw

end Sys2Proof.Machine
end

