-- ==== Sys2Proof/Safety.lean ====
section
/-! DEFINITION. The terms claims are stated in: runs of several steps, the invariant of every state a run reaches, the
invariant of a conversion in progress, and which accesses of the outside world exist. -/

namespace Sys2Proof.Machine

/-! ## Runs -/

/-- `n` steps, stopping at the first stop. -/
def runSteps (n : Nat) (s : State) : Host.Outcome State Fault Refusal :=
  match n with
  | 0 => .next s
  | k + 1 =>
    match step s with
    | .next t => runSteps k t
    | .fault r => .fault r
    | .refused r => .refused r

/-- The next state of an outcome, none where the machine stopped. -/
def nextOf (o : Host.Outcome State Fault Refusal) : Option State :=
  match o with
  | .next t => some t
  | .fault _ => none
  | .refused _ => none

/-! ## The invariant -/

/-- The memories are in canonical form and hold only addresses they have (R32, R33), PG as a conversion found it too. -/
def MemoriesCanonical (s : State) : Prop :=
  Memory.wf s.fb = true ∧ Memory.wf s.pg = true ∧
    Memory.keysBelow frameBufferEnd s.fb = true ∧ Memory.keysBelow pixelGridEnd s.pg = true ∧
    Memory.wf s.pgBefore = true ∧ Memory.keysBelow pixelGridEnd s.pgBefore = true

/-- ERRCODE is nonzero exactly when STATE = ERROR, and the two numbers are 0 unless it is SIZE_MISMATCH (R28, R29). -/
def ErrorsAgree (s : State) : Prop :=
  (s.errCode ≠ .noError ↔ s.status = .error) ∧
    (s.errCode ≠ .sizeMismatch → s.errActual = 0 ∧ s.errExpected = 0)

/-- In BUSY the checks hold of the registers, `P` is at most `W × H`, and the finish step is selected exactly when
`P = W × H` (R27, R37, R179). -/
def ConversionLegal (s : State) : Prop :=
  s.status = .busy →
    s.dimsPass = true ∧ s.sizePass = true ∧ s.p.toNat ≤ s.frameSize ∧ (s.uop = 15 ↔ s.p.toNat = s.frameSize)

/-- In BUSY, within a pixel step, the address registers already written hold the addresses of pixel `P` (R130, R131,
R133). -/
def AddressesStaged (s : State) : Prop :=
  s.status = .busy → s.uop ≠ 15 →
    (1 ≤ s.uop.toNat → s.dp.x.toNat = s.p.toNat % s.width.toNat ∧ s.dp.y.toNat = s.p.toNat / s.width.toNat) ∧
    (2 ≤ s.uop.toNat → s.dp.la.toNat = s.p.toNat) ∧
    (4 ≤ s.uop.toNat → s.dp.ca.toNat =
      chromaAddressAt s.width.toNat s.height.toNat (s.p.toNat % s.width.toNat) (s.p.toNat / s.width.toNat))

/-- The invariant of every state a run reaches. -/
def Inv (s : State) : Prop := MemoriesCanonical s ∧ ErrorsAgree s ∧ ConversionLegal s ∧ AddressesStaged s

/-! ## The invariant of a conversion in progress -/

/-- The luma byte of pixel `P`, and its two raw chroma bytes. -/
def State.lumaOfP (s : State) : Byte := s.frameByte s.p.toNat
def State.chromaAddressOfP (s : State) : Nat :=
  chromaAddressAt s.width.toNat s.height.toNat (s.p.toNat % s.width.toNat) (s.p.toNat / s.width.toNat)
def State.uOfP (s : State) : Byte := s.frameByte s.chromaAddressOfP
def State.vOfP (s : State) : Byte := s.frameByte (s.chromaAddressOfP + 1)
def State.colourOfP (s : State) : Rgb := colourOf s.lumaOfP s.uOfP s.vOfP

/-- In BUSY, within a pixel step, the registers already written hold the values of pixel `P` (R132 to R136, R151 to R153,
R170 to R174). -/
def ValuesStaged (s : State) : Prop :=
  s.status = .busy → s.uop ≠ 15 →
    (3 ≤ s.uop.toNat → s.dp.yv = s.lumaOfP) ∧
    (5 ≤ s.uop.toNat → s.dp.cw = s.vOfP ++ s.uOfP) ∧
    (6 ≤ s.uop.toNat → s.dp.ub = s.uOfP ∧ s.dp.vb = s.vOfP) ∧
    (7 ≤ s.uop.toNat → s.dp.u = centre s.uOfP ∧ s.dp.v = centre s.vOfP) ∧
    (8 ≤ s.uop.toNat → s.dp.rv = channelR s.lumaOfP (centre s.vOfP)) ∧
    (9 ≤ s.uop.toNat → s.dp.gv = channelG s.lumaOfP (centre s.uOfP) (centre s.vOfP)) ∧
    (10 ≤ s.uop.toNat → s.dp.bv = channelB s.lumaOfP (centre s.uOfP)) ∧
    (11 ≤ s.uop.toNat →
      s.dp.ri = truncChannel s.dp.rv ∧ s.dp.gi = truncChannel s.dp.gv ∧ s.dp.bi = truncChannel s.dp.bv) ∧
    (12 ≤ s.uop.toNat → s.dp.r8 = s.colourOfP.r ∧ s.dp.g8 = s.colourOfP.g ∧ s.dp.b8 = s.colourOfP.b) ∧
    (13 ≤ s.uop.toNat → s.dp.pw = s.colourOfP.word) ∧
    (14 ≤ s.uop.toNat → s.p.toNat ∉ s.settled → s.gridEntry s.p.toNat = some s.colourOfP.word)

/-- In BUSY, every pixel before `P` is stored (R174), but for those whose entry a host write in BUSY has decided (R64,
R65). -/
def GridSoFar (s : State) : Prop :=
  s.status = .busy → ∀ i, i < s.p.toNat → i ∉ s.settled →
    s.gridEntry i = some (pixelWordAt s.frameByte s.width.toNat s.height.toNat i)

/-- In BUSY, every entry of a pixel past `P` is as the conversion found it, with the same exception (R174, R222). -/
def GridStillBefore (s : State) : Prop :=
  s.status = .busy → ∀ i, s.p.toNat < i → i < s.frameSize → i ∉ s.settled → s.gridEntry i = Memory.read s.pgBefore i

/-- The invariant of a conversion in progress; it says nothing outside BUSY. -/
def ConversionInv (s : State) : Prop := Inv s ∧ ValuesStaged s ∧ GridSoFar s ∧ GridStillBefore s

/-- Every entry of the grid holds the pixel of the frame (R182). -/
def GridComplete (s : State) : Prop :=
  ∀ i, i < s.frameSize → s.gridEntry i = some (pixelWordAt s.frameByte s.width.toNat s.height.toNat i)

/-! ## Whose turn it is, and which accesses exist -/

/-- CORE has the next turn at a boundary between CORE steps, and `ms` are the moves then left: the queue is empty, or
CORE's turn stands first in it. -/
def CoreTurnNext (s : State) (ms : List Move) : Prop :=
  (s.moves = [] ∧ ms = []) ∨ s.moves = Move.core :: ms

/-- The event is a host access to an address of FB or an entry of PG that does not exist (R26, R33; log entry 25). -/
def HostEvent.missesMemory (e : HostEvent) : Prop :=
  match e with
  | .fbWrite addr bytes => 2 ^ 32 < addr + bytes.length
  | .fbRead addr => 2 ^ 32 ≤ addr
  | .pgRead index => 2 ^ 30 ≤ index
  | .pgWrite index _ => 2 ^ 30 ≤ index
  | .reset => False

/-- Everything but the datapath registers, the pixel counter, the selector and the pixel grid: what a pixel step leaves
alone. -/
def SameBesidePixelStep (s t : State) : Prop :=
  t.status = s.status ∧ t.width = s.width ∧ t.height = s.height ∧ t.buflen = s.buflen ∧ t.errCode = s.errCode ∧
    t.errActual = s.errActual ∧ t.errExpected = s.errExpected ∧ t.fb = s.fb ∧ t.hostRead = s.hostRead ∧
    t.draws = s.draws ∧ t.pgBefore = s.pgBefore ∧ t.settled = s.settled

end Sys2Proof.Machine
end

