-- ==== Sys2Proof/WellFormed.lean ====
section
/-! DEFINITION. Which operations are well formed. Every operand's width is in its type; what is left to check is the
byte offset of a register access (10_state.md R21, 93_implementation_defined.md U14). -/

namespace Sys2Proof

/-- The port reaches whole aligned 32-bit registers only (R21). -/
def offsetAligned (offset : Nat) : Bool := decide (offset % 4 = 0)

/-- The last register, ERR_EXPECTED, stands at offset 0x1C (R21, R22). -/
def offsetInRange (offset : Nat) : Bool := decide (offset ≤ 0x1C)

/-- The checks an operation must pass to be encodable. -/
def Instr.wellFormed : Instr → Bool
  | .rd offset => offsetAligned offset && offsetInRange offset
  | .wr offset _ => offsetAligned offset && offsetInRange offset
  | .nop _ => true
  | .start _ _ => true
  | .clear _ => true
  | .xySplit => true
  | .lumaAddr => true
  | .lumaLd => true
  | .chromaAddr => true
  | .chromaLd => true
  | .chromaSplit => true
  | .center => true
  | .macR => true
  | .macG => true
  | .macB => true
  | .trunc => true
  | .clamp => true
  | .pack => true
  | .pixSt => true
  | .advance => true
  | .finish => true

end Sys2Proof
end

