-- ==== Sys2Proof/Certificates/Slice0/Obligations.lean ====
section
/-! DEFINITION. The statements for the provers, in the order of OBLIGATIONS.json. Numbers are stated in natural numbers,
integers and exact rationals, as the rules give them; a next state is stated as the state before with the fields that
change, so that it is the operation's frame too. `uop` is the model's selector (R90) and `hostRead` the model's place for
the value a read returns to the host; neither is a register of the block. -/

open Sys2Proof Sys2Proof.Machine

/-! ## Encoding -/

/-- Decode of encode is the instruction, with every operand at every value (R81, R83, R90). -/
def Obligations.DecodeOfEncodeIsTheInstruction : Prop :=
  ∀ i : Instr, i.wellFormed = true → decode (encode i) = i

/-- Encode of decode is the word, but for the data bits a read does not carry; and what is decoded is well formed. -/
def Obligations.EncodeOfDecodeIsTheWord : Prop :=
  (∀ w : InstrWord, (decode w).wellFormed = true) ∧
  (∀ (h : BitVec 4) (d : Word), encode (decode (.bus h d)) = .bus h (if h.toNat < 8 then 0 else d)) ∧
  (∀ d : Word, encode (decode (.ctrl d)) = .ctrl d) ∧
  (∀ k : BitVec 4, encode (decode (.uop k)) = .uop k)

/-- Every word of every format belongs to exactly one row of the opcode table: that of the operation it decodes to. -/
def Obligations.EveryWordBelongsToItsRowAlone : Prop :=
  ∀ w : InstrWord, rowsOf w = [(decode w).mnemonic]

/-- R83: START when bit 0 is set, CLEAR when `d[1:0] = 2`, NOP when `d[1:0] = 0`; the other bits go to the operands. -/
def Obligations.ControlWordDecodesToOneOfThreeCommands : Prop :=
  ∀ d : Word,
    (d.toNat % 2 = 1 → ∃ (c : Bool) (r : BitVec 30),
      decode (.ctrl d) = .start c r ∧ (c = true ↔ d.toNat / 2 % 2 = 1) ∧ r.toNat = d.toNat / 4) ∧
    (d.toNat % 4 = 2 → ∃ r : BitVec 30, decode (.ctrl d) = .clear r ∧ r.toNat = d.toNat / 4) ∧
    (d.toNat % 4 = 0 → ∃ r : BitVec 30, decode (.ctrl d) = .nop r ∧ r.toNat = d.toNat / 4)

/-- R82: two CTRL words that agree in bits 1:0 have the same effect in every state. -/
def Obligations.ReservedControlBitsAreIgnored : Prop :=
  ∀ (d e : Word) (s : State), d.toNat % 4 = e.toNat % 4 →
    exec (decode (.ctrl d)) s = exec (decode (.ctrl e)) s

/-- R81: header `idx` is RD and header `8 + idx` is WR of the register whose byte offset is `4 × idx`, for all eight
indices, with the register the table gives each. -/
def Obligations.BusHeaderNamesTheAccessAndTheRegister : Prop :=
  (∀ (idx : Fin 8) (d : Word),
    decode (.bus (BitVec.ofNat 4 idx.val) d) = .rd (4 * idx.val) ∧
    decode (.bus (BitVec.ofNat 4 (8 + idx.val)) d) = .wr (4 * idx.val) d) ∧
  (List.range 8).map (fun k => hostRegAt (4 * k)) =
    [some .ctrl, some .status, some .width, some .height, some .buflen, some .errCode, some .errActual, some .errExpected]

/-- Words written out from the spec's encodings: the CTRL words of 95_test_vectors.md section 2.1, the bus words of
program P1, the sixteen ids of R90, and bits past a format's length, which are rejected. -/
def Obligations.WrittenOutWordsDecode : Prop :=
  decode (.ctrl 0x00000000) = .nop 0 ∧ decode (.ctrl 0x00000001) = .start false 0 ∧
  decode (.ctrl 0x00000002) = .clear 0 ∧ decode (.ctrl 0x00000003) = .start true 0 ∧
  decode (.ctrl 0xFFFFFFFC) = .nop 0x3FFFFFFF ∧ decode (.ctrl 0xFFFFFFFE) = .clear 0x3FFFFFFF ∧
  decode (.bus 0xA 2) = .wr 0x08 2 ∧ decode (.bus 0xB 4) = .wr 0x0C 4 ∧ decode (.bus 0xC 12) = .wr 0x10 12 ∧
  decode (.bus 0x8 1) = .wr 0x00 1 ∧ decode (.bus 0x1 0) = .rd 0x04 ∧ decode (.bus 0x5 0) = .rd 0x14 ∧
  (List.range 16).map (fun k => (decode (.uop (BitVec.ofNat 4 k))).mnemonic) =
    ["XY_SPLIT", "LUMA_ADDR", "LUMA_LD", "CHROMA_ADDR", "CHROMA_LD", "CHROMA_SPLIT", "CENTER", "MAC_R", "MAC_G",
     "MAC_B", "TRUNC", "CLAMP", "PACK", "PIX_ST", "ADVANCE", "FINISH"] ∧
  (match decodeBits .uop 16 with | .error .wordTooWide => true | .ok _ => false) = true

/-! ## Host register accesses -/

/-- R115: what each register reads as, and that a read changes no register. -/
def Obligations.ReadReturnsTheRegister : Prop :=
  (∀ (idx : Fin 8) (d : Word), decode (.bus (BitVec.ofNat 4 idx.val) d) = .rd (4 * idx.val)) ∧
  ∀ s : State,
    exec (.rd 0x00) s = .next { s with hostRead := some 0 } ∧
    exec (.rd 0x04) s = .next { s with hostRead := some (match s.status with
      | .idle => 0 | .busy => 1 | .done => 2 | .error => 3) } ∧
    exec (.rd 0x08) s = .next { s with hostRead := some s.width } ∧
    exec (.rd 0x0C) s = .next { s with hostRead := some s.height } ∧
    exec (.rd 0x10) s = .next { s with hostRead := some s.buflen } ∧
    exec (.rd 0x14) s = .next { s with hostRead := some (match s.errCode with
      | .noError => 0 | .invalidDimensions => 1 | .sizeMismatch => 2) } ∧
    exec (.rd 0x18) s = .next { s with hostRead := some s.errActual } ∧
    exec (.rd 0x1C) s = .next { s with hostRead := some s.errExpected }

/-- An offset that is none of the eight does not exist on the port (R21, U14), and only that is refused; that it is
a refusal is the model's choice (log entry 17). -/
def Obligations.AccessIsRefusedExactlyAtOtherOffsets : Prop :=
  ∀ (off : Nat) (d : Word) (s : State),
    (¬(off % 4 = 0 ∧ off ≤ 0x1C) →
      exec (.rd off) s = .refused .noSuchRegister ∧ exec (.wr off d) s = .refused .noSuchRegister) ∧
    (off % 4 = 0 ∧ off ≤ 0x1C →
      (∃ t, exec (.rd off) s = .next t) ∧ (∃ t, exec (.wr off d) s = .next t))

/-- R116: the effect of a write, register by register. -/
def Obligations.WriteReachesTheRegister : Prop :=
  (∀ (idx : Fin 8) (d : Word), decode (.bus (BitVec.ofNat 4 (8 + idx.val)) d) = .wr (4 * idx.val) d) ∧
  ∀ (s : State) (v : Word),
    exec (.wr 0x00 v) s = exec (decode (.ctrl v)) s ∧
    exec (.wr 0x08 v) s = .next (if s.status = .busy then s else { s with width := v }) ∧
    exec (.wr 0x0C v) s = .next (if s.status = .busy then s else { s with height := v }) ∧
    exec (.wr 0x10 v) s = .next (if s.status = .busy then s else { s with buflen := v }) ∧
    exec (.wr 0x04 v) s = .next s ∧ exec (.wr 0x14 v) s = .next s ∧
    exec (.wr 0x18 v) s = .next s ∧ exec (.wr 0x1C v) s = .next s

/-- R37: while BUSY a write to WIDTH, HEIGHT or BUFLEN changes nothing at all, and no step of any kind but reset changes
one of the three. -/
def Obligations.ConfigurationIsConstantWhileBusy : Prop :=
  (∀ (s : State) (v : Word), s.status = .busy →
    exec (.wr 0x08 v) s = .next s ∧ exec (.wr 0x0C v) s = .next s ∧ exec (.wr 0x10 v) s = .next s) ∧
  ∀ s t : State, s.status = .busy → s.fetch.1 ≠ .event .reset → step s = .next t →
    t.width = s.width ∧ t.height = s.height ∧ t.buflen = s.buflen

/-! ## Commands -/

/-- R110. -/
def Obligations.NopChangesNothing : Prop :=
  ∀ (d : Word) (s : State), d.toNat % 4 = 0 →
    (∃ r, decode (.ctrl d) = .nop r) ∧ exec (decode (.ctrl d)) s = .next s

/-- START by R111, with `dims_ok` of R113 and the expected size of R114. The bound 32767 is the default `DIM_MAX`, to which
the model fixes it (log entry 11). The selector `q` is the model's own and is left open; that `pgBefore` is PG as the
conversion finds it and `settled` is empty is the model's choice (log entry 30). -/
def Obligations.StartChecksAndBegins : Prop :=
  ∀ (d : Word) (s : State), d.toNat % 2 = 1 →
    (∃ c r, decode (.ctrl d) = .start c r) ∧
    (s.status = .busy → exec (decode (.ctrl d)) s = .next s) ∧
    (s.status ≠ .busy →
      ¬((1 ≤ s.width.toNat ∧ s.width.toNat ≤ 32767) ∧ (1 ≤ s.height.toNat ∧ s.height.toNat ≤ 32767) ∧
        s.width.toNat % 2 = 0 ∧ s.height.toNat % 4 = 0) →
      exec (decode (.ctrl d)) s =
        .next { s with status := .error, errCode := .invalidDimensions, errActual := 0, errExpected := 0 }) ∧
    (s.status ≠ .busy →
      (1 ≤ s.width.toNat ∧ s.width.toNat ≤ 32767) ∧ (1 ≤ s.height.toNat ∧ s.height.toNat ≤ 32767) ∧
        s.width.toNat % 2 = 0 ∧ s.height.toNat % 4 = 0 →
      (s.buflen.toNat ≠ s.width.toNat * s.height.toNat * 3 / 2 →
        ∃ expected : Word, expected.toNat = s.width.toNat * s.height.toNat * 3 / 2 ∧
          exec (decode (.ctrl d)) s =
            .next { s with status := .error, errCode := .sizeMismatch, errActual := s.buflen, errExpected := expected }) ∧
      (s.buflen.toNat = s.width.toNat * s.height.toNat * 3 / 2 →
        ∃ q : BitVec 4,
          exec (decode (.ctrl d)) s =
            .next { s with status := .busy, errCode := .noError, errActual := 0, errExpected := 0, p := 0, uop := q,
                           pgBefore := s.pg, settled := [] }))

/-- R112. -/
def Obligations.ClearLeavesDoneAndError : Prop :=
  ∀ (d : Word) (s : State), d.toNat % 4 = 2 →
    (∃ r, decode (.ctrl d) = .clear r) ∧
    (s.status = .done ∨ s.status = .error →
      exec (decode (.ctrl d)) s =
        .next { s with status := .idle, errCode := .noError, errActual := 0, errExpected := 0 }) ∧
    (s.status = .idle ∨ s.status = .busy → exec (decode (.ctrl d)) s = .next s)

/-- R196: the exception entry writes the three error registers and STATE, and nothing else. -/
def Obligations.RaiseErrorWritesTheErrorRegistersAndState : Prop :=
  ∀ (s : State) (code : ErrCode) (actual expected : Word),
    s.raiseError code actual expected =
      { s with errCode := code, errActual := actual, errExpected := expected, status := .error }

/-- START, whether it fails (R197) or begins a conversion (R111), writes neither memory, and its outcome does not depend on
what they hold, but for the model's own record of PG as the conversion finds it, when one begins, which is the model's
choice (log entry 30). -/
def Obligations.StartTouchesNeitherMemory : Prop :=
  ∀ (c : Bool) (r : BitVec 30) (s t : State), exec (.start c r) s = .next t →
    t.fb = s.fb ∧ t.pg = s.pg ∧
    ∀ (fb : List Host.Cell) (pg : List (Nat × Word)),
      exec (.start c r) { s with fb := fb, pg := pg } = .next { t with
        fb := fb, pg := pg, pgBefore := if s.status ≠ .busy ∧ t.status = .busy then pg else s.pgBefore }

/-- R191: an operation that leaves another nonzero error code, or an error state that was not there, is a START that was
accepted, as a command or as a write to CTRL. -/
def Obligations.ErrorsAreRaisedByStartAlone : Prop :=
  ∀ (i : Instr) (s t : State), exec i s = .next t → t.status = .error →
    (s.status = .error ∧ t.errCode = s.errCode ∧ t.errActual = s.errActual ∧ t.errExpected = s.errExpected) ∨
    (s.status ≠ .busy ∧ ((∃ c r, i = .start c r) ∨ ∃ d : Word, d.toNat % 2 = 1 ∧ i = .wr 0 d))

/-! ## The address calculator, the loads and the upsampler -/

/-- R130. -/
def Obligations.XySplitDividesTheCounter : Prop :=
  decode (.uop 0) = .xySplit ∧
  ∀ s : State, s.status = .busy → s.p.toNat < s.width.toNat * s.height.toNat →
    s.width.toNat ≤ 32767 → s.height.toNat ≤ 32767 →
    ∃ x y : BitVec 15,
      x.toNat = s.p.toNat % s.width.toNat ∧ y.toNat = s.p.toNat / s.width.toNat ∧
      x.toNat < s.width.toNat ∧ y.toNat < s.height.toNat ∧
      exec .xySplit s = .next { s with dp := { s.dp with x := x, y := y } }

/-- R131. -/
def Obligations.LumaAddressIsRowMajor : Prop :=
  decode (.uop 1) = .lumaAddr ∧
  ∀ s : State, s.status = .busy → s.p.toNat < s.width.toNat * s.height.toNat →
    s.width.toNat ≤ 32767 → s.height.toNat ≤ 32767 →
    s.dp.x.toNat < s.width.toNat → s.dp.y.toNat < s.height.toNat →
    ∃ la : Word,
      la.toNat = s.dp.x.toNat + s.dp.y.toNat * s.width.toNat ∧
      la.toNat ≤ s.width.toNat * s.height.toNat - 1 ∧
      (s.dp.x.toNat = s.p.toNat % s.width.toNat → s.dp.y.toNat = s.p.toNat / s.width.toNat → la = s.p) ∧
      exec .lumaAddr s = .next { s with dp := { s.dp with la := la } }

/-- R132. The byte is the last one written at the address; where nothing was written it is some byte, a free value of
the model (log entry 6), of which nothing is claimed. -/
def Obligations.LumaLoadReadsOneByte : Prop :=
  decode (.uop 2) = .lumaLd ∧
  ∀ s : State, s.status = .busy → s.p.toNat < s.width.toNat * s.height.toNat → s.dp.la.toNat < s.buflen.toNat →
    ∃ b : Byte,
      (∀ c, Memory.read s.fb s.dp.la.toNat = some c → b = c) ∧
      exec .lumaLd s = .next { s with dp := { s.dp with yv := b } }

/-- R133, for dimensions the check admits. -/
def Obligations.ChromaAddressServesTwoByFourBlocks : Prop :=
  decode (.uop 3) = .chromaAddr ∧
  ∀ s : State, s.status = .busy → s.p.toNat < s.width.toNat * s.height.toNat →
    s.width.toNat ≤ 32767 → s.height.toNat ≤ 32767 → s.width.toNat % 2 = 0 → s.height.toNat % 4 = 0 →
    s.dp.x.toNat < s.width.toNat → s.dp.y.toNat < s.height.toNat →
    ∃ ci ca : Word,
      ci.toNat = s.dp.x.toNat / 2 + (s.dp.y.toNat / 4) * s.width.toNat ∧
      ca.toNat = s.width.toNat * s.height.toNat + ci.toNat * 2 ∧
      ci.toNat + s.width.toNat / 2 + 1 ≤ s.width.toNat * s.height.toNat / 4 ∧
      ca.toNat + s.width.toNat + 2 ≤ s.width.toNat * s.height.toNat * 3 / 2 ∧
      ca.toNat % 2 = 0 ∧
      exec .chromaAddr s = .next { s with dp := { s.dp with ci := ci, ca := ca } }

/-- R134: the 16-bit word is little-endian. -/
def Obligations.ChromaLoadReadsALittleEndianWord : Prop :=
  decode (.uop 4) = .chromaLd ∧
  ∀ s : State, s.status = .busy → s.p.toNat < s.width.toNat * s.height.toNat → s.dp.ca.toNat + 1 < s.buflen.toNat →
    ∃ (cw : BitVec 16) (lo hi : Byte),
      (∀ c, Memory.read s.fb s.dp.ca.toNat = some c → lo = c) ∧
      (∀ c, Memory.read s.fb (s.dp.ca.toNat + 1) = some c → hi = c) ∧
      cw.toNat = lo.toNat + 256 * hi.toNat ∧
      exec .chromaLd s = .next { s with dp := { s.dp with cw := cw } }

/-- R135. -/
def Obligations.ChromaSplitTakesLowByteAsU : Prop :=
  decode (.uop 5) = .chromaSplit ∧
  ∀ s : State, s.status = .busy → s.p.toNat < s.width.toNat * s.height.toNat →
    ∃ ub vb : Byte,
      ub.toNat = s.dp.cw.toNat % 256 ∧ vb.toNat = s.dp.cw.toNat / 256 ∧
      exec .chromaSplit s = .next { s with dp := { s.dp with ub := ub, vb := vb } }

/-- R136: `U` and `V` are signed; as patterns they are the bytes with bit 7 inverted (R93). -/
def Obligations.CenterSubtracts128 : Prop :=
  decode (.uop 6) = .center ∧
  ∀ s : State, s.status = .busy → s.p.toNat < s.width.toNat * s.height.toNat →
    ∃ u v : BitVec 8,
      u.toInt = (s.dp.ub.toNat : Int) - 128 ∧ v.toInt = (s.dp.vb.toNat : Int) - 128 ∧
      u = s.dp.ub ^^^ 0x80 ∧ v = s.dp.vb ^^^ 0x80 ∧
      exec .center s = .next { s with dp := { s.dp with u := u, v := v } }

/-! ## The colour matrix -/

/-- R150: the coefficients the channels multiply by are the source's expressions in the constants of R92, and the rule's
fractions in lowest terms; luma has coefficient 1 and no channel has a constant term. -/
def Obligations.CoefficientsFollowFromTheConstants : Prop :=
  wr = 299 / 1000 ∧ wb = 114 / 1000 ∧ wg = 587 / 1000 ∧ umax = 436 / 1000 ∧ vmax = 615 / 1000 ∧
  kRV = (1 - wr) / vmax ∧ kGU = wb * (1 - wb) / (umax * wg) ∧ kGV = wr * (1 - wr) / (vmax * wg) ∧
  kBU = (1 - wb) / umax ∧ kGU = 15529365 / 39349545 ∧ kGV = 22846291 / 39349545 ∧
  (kRV.num = 701 ∧ kRV.den = 615) ∧ (kGU.num = 25251 ∧ kGU.den = 63983) ∧
  (kGV.num = 209599 ∧ kGV.den = 361005) ∧ (kBU.num = 443 ∧ kBU.den = 218) ∧
  ∀ (yv : Byte) (u v : BitVec 8),
    channelR yv v = 1 * (yv.toNat : Rat) + 0 * (u.toInt : Rat) + kRV * (v.toInt : Rat) ∧
    channelG yv u v = 1 * (yv.toNat : Rat) - kGU * (u.toInt : Rat) - kGV * (v.toInt : Rat) ∧
    channelB yv u = 1 * (yv.toNat : Rat) + kBU * (u.toInt : Rat) + 0 * (v.toInt : Rat)

/-- R151: the value, its range, when it is an integer, and how far from one it is otherwise. -/
def Obligations.MacRIsExact : Prop :=
  decode (.uop 7) = .macR ∧
  ∀ s : State, s.status = .busy → s.p.toNat < s.width.toNat * s.height.toNat →
    ∃ r : Rat,
      r = (s.dp.yv.toNat : Rat) + (s.dp.v.toInt : Rat) * 701 / 615 ∧
      (-128 * 701 / 615 : Rat) ≤ r ∧ r ≤ 255 + 127 * 701 / 615 ∧
      (s.dp.v.toInt ≠ 0 → ∀ n : Int, (3 / 615 : Rat) ≤ |r - n|) ∧
      exec .macR s = .next { s with dp := { s.dp with rv := r } }

/-- R152: both chroma terms are subtracted; range, distance from the nearest integer, and the two inputs that reach it. -/
def Obligations.MacGIsExact : Prop :=
  decode (.uop 8) = .macG ∧
  ∀ s : State, s.status = .busy → s.p.toNat < s.width.toNat * s.height.toNat →
    ∃ g : Rat,
      g = (s.dp.yv.toNat : Rat) - (s.dp.u.toInt : Rat) * 25251 / 63983 - (s.dp.v.toInt : Rat) * 209599 / 361005 ∧
      g = ((s.dp.yv.toNat : Rat) * 39349545 - (s.dp.u.toInt : Rat) * 15529365 - (s.dp.v.toInt : Rat) * 22846291) /
        39349545 ∧
      -(127 * 15529365 + 127 * 22846291 : Rat) / 39349545 ≤ g ∧
      g ≤ 255 + (128 * 15529365 + 128 * 22846291 : Rat) / 39349545 ∧
      (¬(s.dp.u.toInt = 0 ∧ s.dp.v.toInt = 0) → ∀ n : Int, (280 / 39349545 : Rat) ≤ |g - n|) ∧
      (∀ n : Int, |g - n| = (280 / 39349545 : Rat) →
        (s.dp.u.toInt = 103 ∧ s.dp.v.toInt = 85 ∧ g < n) ∨ (s.dp.u.toInt = -103 ∧ s.dp.v.toInt = -85 ∧ n < g)) ∧
      exec .macG s = .next { s with dp := { s.dp with gv := g } }

/-- R153. -/
def Obligations.MacBIsExact : Prop :=
  decode (.uop 9) = .macB ∧
  ∀ s : State, s.status = .busy → s.p.toNat < s.width.toNat * s.height.toNat →
    ∃ b : Rat,
      b = (s.dp.yv.toNat : Rat) + (s.dp.u.toInt : Rat) * 443 / 218 ∧
      (-128 * 443 / 218 : Rat) ≤ b ∧ b ≤ 255 + 127 * 443 / 218 ∧
      (s.dp.u.toInt ≠ 0 → ∀ n : Int, (1 / 218 : Rat) ≤ |b - n|) ∧
      exec .macB s = .next { s with dp := { s.dp with bv := b } }

/-! ## The clamper -/

/-- R170: on each lane the fraction is dropped, toward zero, for every value whose integer part fits the lane's 11 bits;
and the results of the block's channels lie in the ranges the rule gives (R160), so that all of them do. -/
def Obligations.TruncDropsTheFractionTowardZero : Prop :=
  decode (.uop 10) = .trunc ∧
  (∀ (yv : Byte) (u v : BitVec 8),
    (-145 ≤ (truncChannel (channelR yv v)).toInt ∧ (truncChannel (channelR yv v)).toInt ≤ 399) ∧
    (-123 ≤ (truncChannel (channelG yv u v)).toInt ∧ (truncChannel (channelG yv u v)).toInt ≤ 379) ∧
    (-260 ≤ (truncChannel (channelB yv u)).toInt ∧ (truncChannel (channelB yv u)).toInt ≤ 513) ∧
    (-1025 < channelR yv v ∧ channelR yv v < 1024) ∧ (-1025 < channelG yv u v ∧ channelG yv u v < 1024) ∧
    (-1025 < channelB yv u ∧ channelB yv u < 1024)) ∧
  ∀ s : State, s.status = .busy → s.p.toNat < s.width.toNat * s.height.toNat →
    (-1025 < s.dp.rv ∧ s.dp.rv < 1024) → (-1025 < s.dp.gv ∧ s.dp.gv < 1024) → (-1025 < s.dp.bv ∧ s.dp.bv < 1024) →
    ∃ ri gi bi : BitVec 11,
      (0 ≤ s.dp.rv → (ri.toInt : Rat) ≤ s.dp.rv ∧ s.dp.rv < ri.toInt + 1) ∧
      (s.dp.rv ≤ 0 → s.dp.rv ≤ (ri.toInt : Rat) ∧ (ri.toInt : Rat) - 1 < s.dp.rv) ∧
      (0 ≤ s.dp.gv → (gi.toInt : Rat) ≤ s.dp.gv ∧ s.dp.gv < gi.toInt + 1) ∧
      (s.dp.gv ≤ 0 → s.dp.gv ≤ (gi.toInt : Rat) ∧ (gi.toInt : Rat) - 1 < s.dp.gv) ∧
      (0 ≤ s.dp.bv → (bi.toInt : Rat) ≤ s.dp.bv ∧ s.dp.bv < bi.toInt + 1) ∧
      (s.dp.bv ≤ 0 → s.dp.bv ≤ (bi.toInt : Rat) ∧ (bi.toInt : Rat) - 1 < s.dp.bv) ∧
      exec .trunc s = .next { s with dp := { s.dp with ri := ri, gi := gi, bi := bi } }

/-- R171: each lane saturates into 0..255. -/
def Obligations.ClampSaturates : Prop :=
  decode (.uop 11) = .clamp ∧
  ∀ s : State, s.status = .busy → s.p.toNat < s.width.toNat * s.height.toNat →
    ∃ r8 g8 b8 : Byte,
      (r8.toNat : Int) = (if s.dp.ri.toInt < 0 then 0 else if s.dp.ri.toInt > 255 then 255 else s.dp.ri.toInt) ∧
      (g8.toNat : Int) = (if s.dp.gi.toInt < 0 then 0 else if s.dp.gi.toInt > 255 then 255 else s.dp.gi.toInt) ∧
      (b8.toNat : Int) = (if s.dp.bi.toInt < 0 then 0 else if s.dp.bi.toInt > 255 then 255 else s.dp.bi.toInt) ∧
      exec .clamp s = .next { s with dp := { s.dp with r8 := r8, g8 := g8, b8 := b8 } }

/-- R173, with the format PW of R88. -/
def Obligations.PackPlacesTheChannels : Prop :=
  decode (.uop 12) = .pack ∧
  ∀ s : State, s.status = .busy → s.p.toNat < s.width.toNat * s.height.toNat →
    ∃ pw : Word,
      pw.toNat = s.dp.r8.toNat + 256 * s.dp.g8.toNat + 65536 * s.dp.b8.toNat + 16777216 * 255 ∧
      exec .pack s = .next { s with dp := { s.dp with pw := pw } }

/-! ## Store and sequencing -/

/-- `MemWrite` (R56) sets its entry and no other; PIX_ST (R174) is that write of the pixel word to entry `P`, and the grid
keeps its canonical form. Where a host write in BUSY has decided that entry already (R64, R65), PIX_ST goes on and changes
nothing; that clause is the model's choice, its form of the open order of pixel steps (log entry 30). -/
def Obligations.PixelStoreWritesEntryP : Prop :=
  (∀ (s : State) (i : Nat) (v : Word),
    (s.memWrite i v).gridEntry i = some v ∧ ∀ j, j ≠ i → (s.memWrite i v).gridEntry j = s.gridEntry j) ∧
  decode (.uop 13) = .pixSt ∧
  ∀ s : State, s.status = .busy → s.p.toNat < s.width.toNat * s.height.toNat → s.p.toNat < 2 ^ 30 →
    (s.p.toNat ∉ s.settled →
      ∃ pg : List (Nat × Word),
        Memory.read pg s.p.toNat = some s.dp.pw ∧
        (∀ i, i ≠ s.p.toNat → Memory.read pg i = Memory.read s.pg i) ∧
        (Memory.wf s.pg = true → Memory.wf pg = true) ∧
        exec .pixSt s = .next { s with pg := pg }) ∧
    (s.p.toNat ∈ s.settled → exec .pixSt s = .next s)

/-- R175: the increment never wraps. -/
def Obligations.AdvanceIncrementsTheCounter : Prop :=
  decode (.uop 14) = .advance ∧
  ∀ s : State, s.status = .busy → s.p.toNat < s.width.toNat * s.height.toNat →
    s.width.toNat ≤ 32767 → s.height.toNat ≤ 32767 →
    ∃ p : Word, p.toNat = s.p.toNat + 1 ∧ p.toNat < 2 ^ 30 ∧ exec .advance s = .next { s with p := p }

/-- R176: the finish step is enabled exactly when STATE = BUSY and `P = W × H`, and there it changes STATE alone. -/
def Obligations.FinishReportsDone : Prop :=
  decode (.uop 15) = .finish ∧
  (∀ s : State, s.status = .busy → s.p.toNat = s.width.toNat * s.height.toNat →
    exec .finish s = .next { s with status := .done }) ∧
  ∀ s t : State, exec .finish s = .next t → s.status = .busy ∧ s.p.toNat = s.width.toNat * s.height.toNat

/-- Where a micro-operation stops: outside its step (R176, R177), or, for a load, at an address that is not of the frame
buffer (R26). That it stops there by a fault is the model's choice (log entries 15 and 16). -/
def Obligations.MicroOperationsStopOutsideTheirStep : Prop :=
  (∀ (k : BitVec 4) (s : State), k.toNat ≤ 14 →
    ¬(s.status = .busy ∧ s.p.toNat < s.width.toNat * s.height.toNat) →
    exec (decode (.uop k)) s = .fault .microOpNotEnabled) ∧
  (∀ s : State, ¬(s.status = .busy ∧ s.p.toNat = s.width.toNat * s.height.toNat) →
    exec .finish s = .fault .microOpNotEnabled) ∧
  (∀ s : State, s.status = .busy → s.p.toNat < s.width.toNat * s.height.toNat →
    (s.buflen.toNat ≤ s.dp.la.toNat → exec .lumaLd s = .fault .frameBufferReadOutOfRange) ∧
    (s.buflen.toNat ≤ s.dp.ca.toNat + 1 → exec .chromaLd s = .fault .frameBufferReadOutOfRange))

/-! ## A step runs the decoded operation -/

/-- A host access to REG, or a command, that stands first in the queue between CORE steps: the step is that operation,
with the move taken off the queue and nothing else added. The queue is the model's form of the interleaving (log entries 1,
2 and 20). -/
def Obligations.StepRunsTheHostAccess : Prop :=
  (∀ (s : State) (h : BitVec 4) (d : Word) (ms : List Move),
    ¬(s.status = .busy ∧ s.uop ≠ 0 ∧ s.uop ≠ 15) → s.moves = .bus h d :: ms →
    step s = exec (decode (.bus h d)) { s with moves := ms }) ∧
  (∀ (s : State) (d : Word) (ms : List Move),
    ¬(s.status = .busy ∧ s.uop ≠ 0 ∧ s.uop ≠ 15) → s.moves = .ctrl d :: ms →
    step s = exec (decode (.ctrl d)) { s with moves := ms } ∧
    step s = step { s with moves := .bus 8 d :: ms })

/-- In BUSY, within a pixel step or on CORE's turn, the step is the selected micro-operation, and the selector then moves:
0 to 14 in order, then 0 or 15 as pixels are left, and after 15 to 0 (R177, R179). Outside BUSY no CORE step is enabled:
on CORE's turn the block waits, and nothing but the queue changes. The queue and the selector are the model's form of the
interleaving and the sequencer (log entries 1, 2 and 3). -/
def Obligations.StepRunsTheSelectedMicroOperationOrWaits : Prop :=
  (∀ (s t : State) (ms : List Move), s.status = .busy →
    ((s.uop ≠ 0 ∧ s.uop ≠ 15 ∧ ms = s.moves) ∨ ((s.uop = 0 ∨ s.uop = 15) ∧ CoreTurnNext s ms)) →
    (exec (decode (.uop s.uop)) { s with moves := ms } = .next t →
      step s = .next { t with uop :=
        if s.uop.toNat = 15 then 0
        else if s.uop.toNat = 14 then (if t.p.toNat < t.width.toNat * t.height.toNat then 0 else 15)
        else s.uop + 1 }) ∧
    (∀ f, exec (decode (.uop s.uop)) { s with moves := ms } = .fault f → step s = .fault f)) ∧
  ∀ (s : State) (ms : List Move), s.status ≠ .busy → CoreTurnNext s ms → step s = .next { s with moves := ms }

/-! ## Memory and the outside world -/

/-- R52: one byte, or two bytes with the byte at the lower address in bits 7:0, the same as two reads of one byte. -/
def Obligations.FrameBufferReadsAreLittleEndian : Prop :=
  (∀ (s : State) (a : Nat), a < s.buflen.toNat →
    ∃ b : Byte, s.memRead1 a = some b ∧ ∀ c, Memory.read s.fb a = some c → b = c) ∧
  ∀ (s : State) (a : Nat), a + 1 < s.buflen.toNat →
    ∃ (lo hi : Byte) (w : BitVec 16),
      s.memRead1 a = some lo ∧ s.memRead1 (a + 1) = some hi ∧ s.memRead2 a = some w ∧
      w.toNat = lo.toNat + 256 * hi.toNat

/-- The four bytes of a stored pixel in byte-addressed memory are R, G, B and 0xFF, lowest address first (R66, R88), and
the other bytes are as before. -/
def Obligations.PixelBytesAreRedGreenBlueAlpha : Prop :=
  ∀ (s : State) (i : Nat) (r g b : Byte),
    let t := s.memWrite i (packPixel r g b)
    t.gridByte (4 * i) = some r ∧ t.gridByte (4 * i + 1) = some g ∧ t.gridByte (4 * i + 2) = some b ∧
    t.gridByte (4 * i + 3) = some 0xFF ∧
    ∀ a, (a < 4 * i ∨ 4 * i + 4 ≤ a) → t.gridByte a = s.gridByte a

/-- The host's bytes, written to FB, are what FB then reads as, and every other byte of FB is as before (R59, R60 (a)); FB
has the addresses below 2^32 (log entry 25). Outside BUSY everything else is as before. In BUSY (R64, U6; log entries 9 and
30) every pixel that depends on a written byte, and is not decided yet, is either decided now with the pixel of the bytes
before, or has its step after the write: its entry is the pixel of the bytes now where the step is done, and as it was
where it is to come. Every other entry is as before, and no register changes. -/
def Obligations.HostWriteFillsTheFrameBuffer : Prop :=
  ∀ (s : State) (addr : Nat) (bytes : List Byte) (ms : List Move),
    ¬(s.status = .busy ∧ s.uop ≠ 0 ∧ s.uop ≠ 15) → s.moves = .event (.fbWrite addr bytes) :: ms →
    addr + bytes.length ≤ 2 ^ 32 →
    ∃ fb : List Host.Cell,
      (∀ j (h : j < bytes.length), Memory.read fb (addr + j) = some bytes[j]) ∧
      (∀ a, (a < addr ∨ addr + bytes.length ≤ a) → Memory.read fb a = Memory.read s.fb a) ∧
      (Memory.wf s.fb = true → Memory.wf fb = true) ∧
      (s.status ≠ .busy → step s = .next { s with fb := fb, moves := ms }) ∧
      (s.status = .busy →
        ∃ (pg : List (Nat × Word)) (settled : List Nat) (n : Nat),
          step s = .next { s with fb := fb, pg := pg, settled := settled, draws := n, moves := ms } ∧
          (∀ i, i < s.width.toNat * s.height.toNat → i ∉ s.settled →
            (∃ a, a ∈ s.pixelReads i ∧ addr ≤ a ∧ a < addr + bytes.length) →
            (i ∈ settled ∧ Memory.read pg i = some (s.pixelWord i)) ∨
            (i ∉ settled ∧ Memory.read pg i =
              if i < s.p.toNat then some (({ s with fb := fb } : State).pixelWord i) else s.gridEntry i)) ∧
          (∀ i, (s.width.toNat * s.height.toNat ≤ i ∨ i ∈ s.settled ∨
              ∀ a, a ∈ s.pixelReads i → a < addr ∨ addr + bytes.length ≤ a) →
            Memory.read pg i = s.gridEntry i ∧
            (i < s.width.toNat * s.height.toNat → (i ∈ settled ↔ i ∈ s.settled))))

/-- What the host finds in PG outside BUSY is the last word written there; in BUSY, and for an entry that holds no defined
value, it is some word, a free value of the model (R65, R221; log entry 7). No read changes the block. -/
def Obligations.HostReadOfTheGrid : Prop :=
  ∀ (s : State) (i : Nat) (ms : List Move),
    ¬(s.status = .busy ∧ s.uop ≠ 0 ∧ s.uop ≠ 15) → s.moves = .event (.pgRead i) :: ms → i < 2 ^ 30 →
    ∃ (v : Word) (n : Nat),
      step s = .next { s with hostRead := some v, draws := n, moves := ms } ∧
      (s.status ≠ .busy → ∀ w, s.gridEntry i = some w → v = w ∧ n = s.draws)

/-- The stops the outside world can bring about: an address or entry that does not exist (log entry 25); every other host
access to FB or PG goes on. A read changes only the value returned, of FB the byte last written at the address,
zero-extended (R55, R59; log entry 13), of PG what HostReadOfTheGrid says. A write to PG changes its entry alone; in BUSY,
to an entry the conversion fills (R65, U7; log entries 10 and 30), the host's word survives where the pixel is decided, and
else the pixel of a step that is done stands in its place and a step to come will store it. The bytes and pixels of a
write to FB are HostWriteFillsTheFrameBuffer's. -/
def Obligations.HostEventsStopOnMissingAddressesOnly : Prop :=
  ∀ s : State,
    (∀ addr bytes,
      (2 ^ 32 < addr + bytes.length → s.hostEvent (.fbWrite addr bytes) = .fault .noSuchFrameBufferAddress) ∧
      (addr + bytes.length ≤ 2 ^ 32 → ∃ fb pg settled n,
        s.hostEvent (.fbWrite addr bytes) = .next { s with fb := fb, pg := pg, settled := settled, draws := n } ∧
        (s.status ≠ .busy → pg = s.pg ∧ settled = s.settled ∧ n = s.draws))) ∧
    (∀ addr,
      (addr < 2 ^ 32 → ∃ (v : Word) (b : Byte),
        s.hostEvent (.fbRead addr) = .next { s with hostRead := some v } ∧ v.toNat = b.toNat ∧
        ∀ c, Memory.read s.fb addr = some c → b = c) ∧
      (2 ^ 32 ≤ addr → s.hostEvent (.fbRead addr) = .fault .noSuchFrameBufferAddress)) ∧
    (∀ i,
      (i < 2 ^ 30 → ∃ v n, s.hostEvent (.pgRead i) = .next { s with hostRead := some v, draws := n }) ∧
      (2 ^ 30 ≤ i → s.hostEvent (.pgRead i) = .fault .noSuchPixelGridEntry)) ∧
    (∀ i v,
      (2 ^ 30 ≤ i → s.hostEvent (.pgWrite i v) = .fault .noSuchPixelGridEntry) ∧
      (i < 2 ^ 30 → ¬(s.status = .busy ∧ i < s.width.toNat * s.height.toNat) → ∃ pg,
        s.hostEvent (.pgWrite i v) = .next { s with pg := pg } ∧
        Memory.read pg i = some v ∧ ∀ j, j ≠ i → Memory.read pg j = s.gridEntry j) ∧
      (i < 2 ^ 30 → s.status = .busy ∧ i < s.width.toNat * s.height.toNat → ∃ w pg before settled n,
        s.hostEvent (.pgWrite i v) =
          .next { s with pg := pg, pgBefore := before, settled := settled, draws := n } ∧
        Memory.read pg i = some w ∧ (∀ j, j ≠ i → Memory.read pg j = s.gridEntry j) ∧
        Memory.read before i = some v ∧ (∀ j, j ≠ i → Memory.read before j = Memory.read s.pgBefore j) ∧
        (i ∈ settled → w = v) ∧ (i ∉ settled → w = if i < s.p.toNat then s.pixelWord i else v) ∧
        (i ∈ s.settled → i ∈ settled) ∧
        ∀ j, j ≠ i → j < s.width.toNat * s.height.toNat → (j ∈ settled ↔ j ∈ s.settled)))

/-- The reset input between CORE steps (R220, R221, R222): the registers are the reset state's, FB is untouched, PG is
untouched when no conversion ran, and of a conversion that is abandoned each entry below `W × H` holds its previous word or
the converted pixel (U8), or what it held where a host write in BUSY had decided it. That reset falls between CORE steps,
and the model's record of the previous words, are the model's choice (log entries 1, 8, 27 and 30). -/
def Obligations.ResetKeepsTheMemories : Prop :=
  ∀ (s : State) (ms : List Move),
    ¬(s.status = .busy ∧ s.uop ≠ 0 ∧ s.uop ≠ 15) → s.moves = .event .reset :: ms →
    ∃ t : State, step s = .next t ∧
      t.status = .idle ∧ t.width = 0 ∧ t.height = 0 ∧ t.buflen = 0 ∧
      t.errCode = .noError ∧ t.errActual = 0 ∧ t.errExpected = 0 ∧
      t.fb = s.fb ∧ t.moves = ms ∧
      (s.status ≠ .busy → t.pg = s.pg) ∧
      (s.status = .busy → ∀ i,
        (s.width.toNat * s.height.toNat ≤ i → t.gridEntry i = s.gridEntry i) ∧
        (i < s.width.toNat * s.height.toNat →
          (i ∈ s.settled → t.gridEntry i = s.gridEntry i) ∧
          (i ∉ s.settled → t.gridEntry i = Memory.read s.pgBefore i ∨
            t.gridEntry i = some (pixelAt s.frameByte s.width.toNat s.height.toNat
              (i % s.width.toNat) (i / s.width.toNat)).word)))

/-- R35: the values the spec gives for reset, CTRL reading 0, both memories untouched when no conversion was under way, no
step until a START, and a START straight after reset ends in ERROR. Nothing is said of `P` and the datapath registers,
which the rule leaves unspecified. -/
def Obligations.ResetStateIsIdleWithZeroRegisters : Prop :=
  (State.reset.status = .idle ∧ State.reset.width = 0 ∧ State.reset.height = 0 ∧ State.reset.buflen = 0 ∧
    State.reset.errCode = .noError ∧ State.reset.errActual = 0 ∧ State.reset.errExpected = 0) ∧
  (∀ s : State, s.hostReset.status = .idle ∧ s.hostReset.width = 0 ∧ s.hostReset.height = 0 ∧
    s.hostReset.buflen = 0 ∧ s.hostReset.errCode = .noError ∧ s.hostReset.errActual = 0 ∧
    s.hostReset.errExpected = 0 ∧ s.hostReset.fb = s.fb ∧ (s.status ≠ .busy → s.hostReset.pg = s.pg)) ∧
  exec (.rd 0) State.reset = .next { State.reset with hostRead := some 0 } ∧
  step State.reset = .next State.reset ∧
  ∀ (c : Bool) (r : BitVec 30),
    exec (.start c r) State.reset = .next { State.reset with status := .error, errCode := .invalidDimensions }

/-! ## Whole-machine rules -/

/-- The invariant holds after reset. -/
def Obligations.InvariantHoldsAtReset : Prop := Inv State.reset

/-- Every step keeps the invariant: canonical memories, ERRCODE nonzero exactly in ERROR, and in BUSY legal registers
with `P` in range (raster order, log entry 4) and the addresses of the pixel under way in the address registers. -/
def Obligations.StepKeepsTheInvariant : Prop :=
  ∀ s t : State, Inv s → step s = .next t → Inv t

/-- Every step keeps the invariant of a conversion in progress, whichever host accesses fall between CORE steps, races among
them: every pixel before `P` is stored with the value R177 gives it on the bytes FB holds, every entry past `P` is as the
conversion found it, both but for entries a host write in BUSY has decided, and the registers of the pixel under way hold
its values. -/
def Obligations.StepKeepsTheConversionInvariant : Prop :=
  ∀ s t : State, ConversionInv s → step s = .next t → ConversionInv t

/-- R182, R60 (b), R183: the step that makes STATE DONE changes no register of the block but STATE and no memory (of the
model's own fields, the selector and the queue), the error registers are 0, and every entry below `W × H` that no host write
in BUSY has decided holds the pixel of the frame, whatever was interleaved: where the host kept its duties (R64, R65), all of
them. An entry that is decided stays decided and stays as it is, to DONE, unless the host writes that entry again (R64, R65;
log entries 9, 10 and 30). -/
def Obligations.DoneMeansTheGridIsComplete : Prop :=
  (∀ s t : State, ConversionInv s → step s = .next t → s.status ≠ .done → t.status = .done →
    (∃ q ms, t = { s with status := .done, uop := q, moves := ms }) ∧
    t.width = s.width ∧ t.height = s.height ∧ t.buflen = s.buflen ∧ t.pg = s.pg ∧ t.fb = s.fb ∧
    t.errCode = .noError ∧ t.errActual = 0 ∧ t.errExpected = 0 ∧
    (∀ i, i < s.width.toNat * s.height.toNat → i ∉ s.settled →
      t.gridEntry i = some (pixelAt s.frameByte s.width.toNat s.height.toNat
        (i % s.width.toNat) (i / s.width.toNat)).word) ∧
    (s.settled = [] → GridComplete t)) ∧
  ∀ s t : State, s.status = .busy → s.fetch.1 ≠ .event .reset → step s = .next t →
    ∀ i, i < s.width.toNat * s.height.toNat → i ∈ s.settled →
      i ∈ t.settled ∧ ((∀ v, s.fetch.1 ≠ .event (.pgWrite i v)) → t.gridEntry i = s.gridEntry i)

/-- R199: in a state of the invariant nothing stops the machine but a host access to an address of FB or an entry of PG that
does not exist; in BUSY no micro-operation stops. -/
def Obligations.NothingStopsButAMissingAddress : Prop :=
  ∀ s : State, Inv s → (∀ e, s.fetch.1 = .event e → ¬e.missesMemory) → ∃ t, step s = .next t

/-- R138, and the chain of R137: for dimensions the check admits, every address a pixel step forms lies inside the buffer
of the expected size, and no integer the block forms reaches 2^31. -/
def Obligations.AddressesStayInsideTheBuffer : Prop :=
  ∀ w h x y : Nat, dimsOk 32767 w h = true → x < w → y < h →
    lumaAddressAt w x y ≤ w * h - 1 ∧ w * h - 1 < expectedSize w h ∧
    chromaIndexAt w x y ≤ (w / 2 - 1) + (h / 4 - 1) * w ∧
    chromaIndexAt w x y + w / 2 + 1 ≤ w * h / 4 ∧
    w * h ≤ chromaAddressAt w h x y ∧
    chromaAddressAt w h x y + 1 ≤ w * h * 3 / 2 - w - 1 ∧
    chromaAddressAt w h x y + 1 + 3 ≤ expectedSize w h ∧
    chromaAddressAt w h x y % 2 = 0 ∧
    x < 32767 ∧ y < 32767 ∧ lumaAddressAt w x y < w * h ∧ w * h ≤ 1073545224 ∧ w * h < 2 ^ 30 ∧
    chromaIndexAt w x y < w * h / 4 ∧ w * h / 4 < 2 ^ 28 ∧
    chromaAddressAt w h x y + 1 < expectedSize w h ∧ expectedSize w h ≤ 1610317836 ∧ expectedSize w h < 2 ^ 31 ∧
    2 * expectedSize w h = 3 * (w * h)

/-- R179: STATE changes only by the listed transitions. -/
def Obligations.StateChangesOnlyByTheListedTransitions : Prop :=
  ∀ s t : State, step s = .next t → t.status ≠ s.status →
    (s.fetch.1 = .event .reset ∧ t.status = .idle) ∨
    (s.status ≠ .busy ∧ (∃ w, s.fetch.1 = .word w ∧
        ((∃ c r, decode w = .start c r) ∨ ∃ d : Word, d.toNat % 2 = 1 ∧ decode w = .wr 0 d)) ∧
      ((t.status = .busy ∧ t.p = 0 ∧ s.dimsPass = true ∧ s.sizePass = true) ∨
       (t.status = .error ∧ ¬(s.dimsPass = true ∧ s.sizePass = true)))) ∨
    (s.status = .busy ∧ s.fetch.1 = .word (.uop 15) ∧ s.p.toNat = s.width.toNat * s.height.toNat ∧ t.status = .done) ∨
    ((s.status = .done ∨ s.status = .error) ∧ t.status = .idle ∧ ∃ w, s.fetch.1 = .word w ∧
        ((∃ r, decode w = .clear r) ∨ ∃ d : Word, d.toNat % 4 = 2 ∧ decode w = .wr 0 d))

/-- R177: from a boundary at which CORE has the turn, fifteen steps of the model are one pixel step: entry `P` of PG gets
the pixel of (P mod W, P / W), `P` goes up by one, and nothing else changes but the datapath registers, the selector and
the queue's turn; an entry that a host write in BUSY has decided stays (R64, R65). One micro-operation per step, raster order
and the decided entries are the model's choice (log entries 1, 4 and 30). -/
def Obligations.FifteenStepsAreOnePixelStep : Prop :=
  ∀ (s : State) (ms : List Move), Inv s → s.status = .busy → s.uop = 0 → CoreTurnNext s ms →
    ∃ t : State, runSteps 15 s = .next t ∧
      SameBesidePixelStep s t ∧ t.moves = ms ∧ t.p.toNat = s.p.toNat + 1 ∧
      t.uop = (if s.p.toNat + 1 < s.width.toNat * s.height.toNat then 0 else 15) ∧
      t.gridEntry s.p.toNat = (if s.p.toNat ∈ s.settled then s.gridEntry s.p.toNat
        else some (pixelAt s.frameByte s.width.toNat s.height.toNat
          (s.p.toNat % s.width.toNat) (s.p.toNat / s.width.toNat)).word) ∧
      ∀ i, i ≠ s.p.toNat → t.gridEntry i = s.gridEntry i

/-- R182 (third case) and R180: from any state of the invariant that is not BUSY, with legal dimensions and the right
BUFLEN, START and then `W × H` pixel steps and one finish step, with the host leaving CORE alone, end in DONE with every
entry below `W × H` the pixel of the frame, every other entry, FB and the configuration as before, and no error. The count
15 × W × H rests on one micro-operation per step, the turns on the empty queue being CORE's, and the bound 32767 on the
default `DIM_MAX` (log entries 1, 2 and 11). -/
def Obligations.ConversionFillsTheGridAndEndsInDone : Prop :=
  ∀ (s : State) (d : Word), Inv s → s.status ≠ .busy → d.toNat % 2 = 1 → s.moves = [.bus 8 d] →
    dimsOk 32767 s.width.toNat s.height.toNat = true →
    s.buflen.toNat = expectedSize s.width.toNat s.height.toNat →
    ∃ t : State, runSteps (1 + 15 * (s.width.toNat * s.height.toNat) + 1) s = .next t ∧
      (∀ k u, 1 ≤ k → k ≤ 15 * (s.width.toNat * s.height.toNat) + 1 → runSteps k s = .next u → u.status = .busy) ∧
      t.status = .done ∧ t.errCode = .noError ∧ t.errActual = 0 ∧ t.errExpected = 0 ∧
      t.width = s.width ∧ t.height = s.height ∧ t.buflen = s.buflen ∧ t.fb = s.fb ∧
      (∀ x y, x < s.width.toNat → y < s.height.toNat →
        t.gridEntry (x + y * s.width.toNat) =
          some (pixelAt s.frameByte s.width.toNat s.height.toNat x y).word) ∧
      (∀ i, s.width.toNat * s.height.toNat ≤ i → t.gridEntry i = s.gridEntry i)

/-- R183: the grid a conversion leaves is a function of WIDTH, HEIGHT and the bytes of FB alone: two states of the
conversion invariant that go to DONE with equal dimensions and equal bytes below the expected size, however they got
there, have equal grids, but for entries that a host write in BUSY has decided, which a host that keeps its duties never
makes (R64, R65; log entry 30). -/
def Obligations.FinalGridIsAFunctionOfTheFrame : Prop :=
  ∀ s₁ s₂ t₁ t₂ : State, ConversionInv s₁ → ConversionInv s₂ →
    step s₁ = .next t₁ → step s₂ = .next t₂ →
    s₁.status = .busy → s₂.status = .busy → t₁.status = .done → t₂.status = .done →
    s₁.width = s₂.width → s₁.height = s₂.height →
    (∀ a, a < s₁.buflen.toNat → s₁.frameByte a = s₂.frameByte a) →
    ∀ i, i < s₁.width.toNat * s₁.height.toNat → i ∉ s₁.settled → i ∉ s₂.settled → t₁.gridEntry i = t₂.gridEntry i

/-! ## The function of the block -/

/-- R53: the pixels do not depend on the chroma bytes `W×H + 2×W×r + c` with `W ≤ c < 2×W`, nor on any byte beyond the
frame. -/
def Obligations.UnreadChromaBytesDoNotMatter : Prop :=
  ∀ (w h x y : Nat) (f g : Nat → Byte), dimsOk 32767 w h = true → x < w → y < h →
    (∀ a, a < w * h → f a = g a) →
    (∀ r c, r < h / 4 → c < w → f (w * h + 2 * w * r + c) = g (w * h + 2 * w * r + c)) →
    pixelAt f w h x y = pixelAt g w h x y

/-- R139: the pixels with chroma word index `i + k × W` are exactly the eight of one block, two wide and four high; they
read the same two chroma bytes, and where their luma is equal so is their colour. -/
def Obligations.ChromaIsReplicatedOverTwoByFourBlocks : Prop :=
  (∀ w h i k x y : Nat, dimsOk 32767 w h = true → i < w / 2 → k < h / 4 → x < w → y < h →
    (chromaIndexAt w x y = i + k * w ↔
      (x = 2 * i ∨ x = 2 * i + 1) ∧ (y = 4 * k ∨ y = 4 * k + 1 ∨ y = 4 * k + 2 ∨ y = 4 * k + 3))) ∧
  ∀ (f : Nat → Byte) (w h x y x' y' : Nat), x / 2 = x' / 2 → y / 4 = y' / 4 →
    chromaAddressAt w h x y = chromaAddressAt w h x' y' ∧
    (f (lumaAddressAt w x y) = f (lumaAddressAt w x' y') → pixelAt f w h x y = pixelAt f w h x' y')

/-- R172: after clamping, truncation toward zero and rounding down cannot be told apart, and clamping before dropping the
fraction gives the same; rounding to nearest does not. -/
def Obligations.ClampOfTruncIsClampOfFloor : Prop :=
  (∀ r : Rat, clampChannel (truncRat r) = clampChannel ⌊r⌋ ∧
    ((clampChannel (truncRat r)).toNat : Int) = truncRat (if r < 0 then 0 else if 255 < r then 255 else r)) ∧
  colourOf 81 90 240 = { r := 208, g := 30, b := 3 } ∧
  ((clampChannel ⌊channelR 81 (centre 240) + 1 / 2⌋).toNat = 209 ∧
    (clampChannel ⌊channelG 81 (centre 90) (centre 240) + 1 / 2⌋).toNat = 31 ∧
    (clampChannel ⌊channelB 81 (centre 90) + 1 / 2⌋).toNat = 4)

/-- R159: the offset form gives the pixel of every input, and its offsets lie in the ranges the rule gives. -/
def Obligations.OffsetFormGivesTheSamePixels : Prop :=
  ∀ yv ub vb : Byte,
    let u : Int := ub.toNat - 128
    let v : Int := vb.toNat - 128
    colourOf yv ub vb =
      { r := clampChannel (yv.toNat + offsetR v), g := clampChannel (yv.toNat + offsetG u v),
        b := clampChannel (yv.toNat + offsetB u) } ∧
    (-146 ≤ offsetR v ∧ offsetR v ≤ 144) ∧ (-124 ≤ offsetG u v ∧ offsetG u v ≤ 124) ∧
    (-261 ≤ offsetB u ∧ offsetB u ≤ 258)

/-- R158: the fixed-point datapath with 21 fraction bits in signed 32-bit accumulators gives the offset form for every
input, and so the pixels of R151 to R153. -/
def Obligations.FixedPointDatapathGivesTheSamePixels : Prop :=
  ∀ yv ub vb : Byte,
    let u : Int := ub.toNat - 128
    let v : Int := vb.toNat - 128
    fixedResult (accR yv (centre vb)) = yv.toNat + offsetR v ∧
    fixedResult (accG yv (centre ub) (centre vb)) = yv.toNat + offsetG u v ∧
    fixedResult (accB yv (centre ub)) = yv.toNat + offsetB u ∧
    colourOf yv ub vb =
      { r := clampChannel (fixedResult (accR yv (centre vb))),
        g := clampChannel (fixedResult (accG yv (centre ub) (centre vb))),
        b := clampChannel (fixedResult (accB yv (centre ub))) }

/-- Neutral chroma passes luma through on all three channels, 16 and 235 as any other (R151 to R153), and a chroma byte of
0 is not neutral: the all-zero frame is (0, 124, 0) (90_conflicts.md C1). -/
def Obligations.NeutralChromaIsByte128 : Prop :=
  (∀ yv : Byte, colourOf yv 0x80 0x80 = { r := yv, g := yv, b := yv }) ∧
  ∀ w h x y : Nat, pixelAt (fun _ => 0) w h x y = { r := 0, g := 124, b := 0 }
end

