-- ==== Sys2Proof/Laws/Memory.lean ====
section
/-! SUPPORT. The laws of a memory: a read after a write, the canonical form kept by every operation, and equal memories
are equal data. -/

namespace Sys2Proof.Machine.Memory

variable {α : Type}

@[simp] theorem read_nil (a : Nat) : read ([] : List (Nat × α)) a = none := rfl

theorem read_write_same (m : List (Nat × α)) (a : Nat) (v : α) : read (write m a v) a = some v := by
  induction m with
  | nil => simp [write, read]
  | cons c rest ih =>
    obtain ⟨k, w⟩ := c
    by_cases h1 : a < k
    · simp [write, read, h1]
    · by_cases h2 : a = k
      · simp [write, read, h2]
      · simp [write, read, h1, h2, ih, Ne.symm h2]

theorem read_write_other (m : List (Nat × α)) {a b : Nat} (v : α) (h : b ≠ a) : read (write m a v) b = read m b := by
  induction m with
  | nil => simp [write, read, Ne.symm h]
  | cons c rest ih =>
    obtain ⟨k, w⟩ := c
    by_cases h1 : a < k
    · simp [write, read, h1, Ne.symm h]
    · by_cases h2 : a = k
      · subst h2; simp [write, read, Ne.symm h]
      · simp [write, read, h1, h2, ih]

theorem risingFrom_mono {m : List (Nat × α)} {b c : Nat} (h : b ≤ c) (hm : risingFrom c m = true) :
    risingFrom b m = true := by
  cases m with
  | nil => rfl
  | cons x rest => simp [risingFrom] at *; exact ⟨by omega, hm.2⟩

theorem risingFrom_write {m : List (Nat × α)} {a b : Nat} (v : α) (h : b ≤ a) (hm : risingFrom b m = true) :
    risingFrom b (write m a v) = true := by
  induction m generalizing b with
  | nil => simp [write, risingFrom, h]
  | cons c rest ih =>
    obtain ⟨k, w⟩ := c
    simp [risingFrom] at hm
    by_cases h1 : a < k
    · simp [write, risingFrom, h1, h, hm.2]
    · by_cases h2 : a = k
      · subst h2; simp [write, risingFrom, h, hm.2]
      · simp [write, risingFrom, h1, h2, hm.1]; exact ih (by omega) hm.2

/-- A write keeps the canonical form. -/
theorem wf_write {m : List (Nat × α)} (a : Nat) (v : α) (h : wf m = true) : wf (write m a v) = true :=
  risingFrom_write v (Nat.zero_le a) h

theorem keysBelow_write {m : List (Nat × α)} {a n : Nat} (v : α) (ha : a < n) (h : keysBelow n m = true) :
    keysBelow n (write m a v) = true := by
  induction m with
  | nil => simp [write, keysBelow, ha]
  | cons c rest ih =>
    obtain ⟨k, w⟩ := c
    simp only [keysBelow, List.all_cons, Bool.and_eq_true, decide_eq_true_eq] at h ih
    by_cases h1 : a < k
    · simp [write, keysBelow, h1, ha, h.1]; simpa using h.2
    · by_cases h2 : a = k
      · subst h2; simp [write, keysBelow, ha]; simpa using h.2
      · simp only [write, h1, h2, if_false, keysBelow, List.all_cons, Bool.and_eq_true, decide_eq_true_eq]
        exact ⟨h.1, ih h.2⟩

/-- A run of writes keeps the canonical form. -/
theorem wf_writeList {m : List (Nat × α)} (a : Nat) (vs : List α) (h : wf m = true) : wf (writeList m a vs) = true := by
  induction vs generalizing m a with
  | nil => exact h
  | cons v rest ih => exact ih (a + 1) (wf_write a v h)

theorem keysBelow_writeList {m : List (Nat × α)} {a n : Nat} (vs : List α) (ha : a + vs.length ≤ n)
    (h : keysBelow n m = true) : keysBelow n (writeList m a vs) = true := by
  induction vs generalizing m a with
  | nil => exact h
  | cons v rest ih =>
    simp at ha
    exact ih (by omega) (keysBelow_write v (by omega) h)

theorem read_writeList_outside (m : List (Nat × α)) (vs : List α) {a b : Nat} (h : b < a ∨ a + vs.length ≤ b) :
    read (writeList m a vs) b = read m b := by
  induction vs generalizing m a with
  | nil => rfl
  | cons v rest ih =>
    simp at h
    rw [writeList, ih _ (by omega), read_write_other _ _ (by omega)]

theorem read_writeList_inside (m : List (Nat × α)) (vs : List α) (a : Nat) {j : Nat} (h : j < vs.length) :
    read (writeList m a vs) (a + j) = vs[j]? := by
  induction vs generalizing m a j with
  | nil => simp at h
  | cons v rest ih =>
    cases j with
    | zero => rw [writeList, read_writeList_outside _ _ (by omega)]; simpa using read_write_same m a v
    | succ j => simp at h; rw [writeList, show a + (j + 1) = a + 1 + j by omega, ih _ _ h]; simp

theorem risingFrom_dropBelow {m : List (Nat × α)} {b : Nat} (n : Nat) (h : risingFrom b m = true) :
    risingFrom b (dropBelow m n) = true := by
  induction m generalizing b with
  | nil => rfl
  | cons c rest ih =>
    obtain ⟨k, w⟩ := c
    simp [risingFrom] at h
    by_cases h1 : k < n
    · simp only [dropBelow, h1, if_true]; exact ih (risingFrom_mono (by omega) h.2)
    · simp [dropBelow, h1, risingFrom, h.1]; exact ih h.2

/-- Forgetting low keys keeps the canonical form. -/
theorem wf_dropBelow {m : List (Nat × α)} (n : Nat) (h : wf m = true) : wf (dropBelow m n) = true :=
  risingFrom_dropBelow n h

theorem keysBelow_dropBelow {m : List (Nat × α)} {n : Nat} (k : Nat) (h : keysBelow n m = true) :
    keysBelow n (dropBelow m k) = true := by
  induction m with
  | nil => rfl
  | cons c rest ih =>
    obtain ⟨j, w⟩ := c
    simp only [keysBelow, List.all_cons, Bool.and_eq_true, decide_eq_true_eq] at h ih
    by_cases h1 : j < k
    · simp only [dropBelow, h1, if_true, keysBelow]; exact ih h.2
    · simp only [dropBelow, h1, if_false, keysBelow, List.all_cons, Bool.and_eq_true, decide_eq_true_eq]
      exact ⟨h.1, ih h.2⟩

theorem read_dropBelow (m : List (Nat × α)) (n a : Nat) :
    read (dropBelow m n) a = if a < n then none else read m a := by
  induction m with
  | nil => simp [dropBelow]
  | cons c rest ih =>
    obtain ⟨k, w⟩ := c
    by_cases h1 : k < n
    · by_cases h2 : a < n
      · simp [dropBelow, h1, ih, h2]
      · simp [dropBelow, h1, ih, h2, read, show k ≠ a by omega]
    · by_cases h2 : k = a
      · subst h2; simp [dropBelow, h1, read]
      · simp [dropBelow, h1, read, h2, ih]

/-! ## Replacing what is held below a key -/

theorem wf_fillBelow {m : List (Nat × α)} (n : Nat) (f : Nat → Option α) (h : wf m = true) :
    wf (fillBelow m n f) = true := by
  induction n with
  | zero => exact h
  | succ k ih => unfold fillBelow; split <;> [exact ih; exact wf_write _ _ ih]

theorem keysBelow_fillBelow {m : List (Nat × α)} {b n : Nat} (f : Nat → Option α) (hn : n ≤ b)
    (h : keysBelow b m = true) : keysBelow b (fillBelow m n f) = true := by
  induction n with
  | zero => exact h
  | succ k ih => unfold fillBelow; split <;> [exact ih (by omega); exact keysBelow_write _ (by omega) (ih (by omega))]

theorem read_fillBelow (m : List (Nat × α)) (n : Nat) (f : Nat → Option α) (a : Nat) :
    read (fillBelow m n f) a = if a < n then (f a).orElse (fun _ => read m a) else read m a := by
  induction n with
  | zero => simp [fillBelow]
  | succ k ih =>
    unfold fillBelow
    by_cases ha : a = k
    · subst ha
      split <;> rename_i hf
      · rw [ih, hf]; simp
      · rw [read_write_same, hf]; simp
    · have e : a < k + 1 ↔ a < k := by omega
      simp only [e]
      split
      · exact ih
      · rw [read_write_other _ _ ha, ih]

/-- Below `n` the replacement, elsewhere as before. -/
theorem read_replaceBelow (m : List (Nat × α)) (n : Nat) (f : Nat → Option α) (a : Nat) :
    read (replaceBelow m n f) a = if a < n then f a else read m a := by
  unfold replaceBelow
  rw [read_fillBelow, read_dropBelow]
  split <;> [cases f a <;> rfl; rfl]

/-- Replacing low keys keeps the canonical form. -/
theorem wf_replaceBelow {m : List (Nat × α)} (n : Nat) (f : Nat → Option α) (h : wf m = true) :
    wf (replaceBelow m n f) = true := wf_fillBelow n f (wf_dropBelow n h)

theorem keysBelow_replaceBelow {m : List (Nat × α)} {b n : Nat} (f : Nat → Option α) (hn : n ≤ b)
    (h : keysBelow b m = true) : keysBelow b (replaceBelow m n f) = true :=
  keysBelow_fillBelow f hn (keysBelow_dropBelow n h)

/-! ## Equal memories -/

theorem read_below {m : List (Nat × α)} {a b : Nat} (h : risingFrom b m = true) (hab : a < b) : read m a = none := by
  induction m generalizing b with
  | nil => rfl
  | cons c rest ih =>
    obtain ⟨k, w⟩ := c
    simp [risingFrom] at h
    simp [read, show k ≠ a by omega]
    exact ih h.2 (by omega)

theorem risingFrom_ext {m n : List (Nat × α)} {b : Nat} (hm : risingFrom b m = true) (hn : risingFrom b n = true)
    (h : ∀ a, read m a = read n a) : m = n := by
  induction m generalizing n b with
  | nil =>
    cases n with
    | nil => rfl
    | cons c rest => have := h c.1; simp [read] at this
  | cons c rest ih =>
    obtain ⟨k, w⟩ := c
    cases n with
    | nil => have := h k; simp [read] at this
    | cons d rest' =>
      obtain ⟨j, u⟩ := d
      simp [risingFrom] at hm hn
      have hk := h k
      have hj := h j
      have hkj : k = j := by
        rcases Nat.lt_trichotomy k j with hlt | heq | hgt
        · simp [read, show j ≠ k by omega, read_below hn.2 (show k < j + 1 by omega)] at hk
        · exact heq
        · simp [read, show k ≠ j by omega, read_below hm.2 (show j < k + 1 by omega)] at hj
      subst hkj
      simp [read] at hk
      subst hk
      have : rest = rest' := by
        refine ih hm.2 hn.2 (fun a => ?_)
        by_cases ha : k = a
        · subst ha; rw [read_below hm.2 (by omega), read_below hn.2 (by omega)]
        · have := h a; simpa [read, ha] using this
      rw [this]

/-- Memories in canonical form that read the same everywhere are equal. -/
theorem wf_ext {m n : List (Nat × α)} (hm : wf m = true) (hn : wf n = true) (h : ∀ a, read m a = read n a) : m = n :=
  risingFrom_ext hm hn h

end Sys2Proof.Machine.Memory
end

