-- ==== Sys2Proof/Laws/State.lean ====
section
/-! SUPPORT. One lemma per field per update of State, each true by rfl, so that no later proof unfolds an update. -/

namespace Sys2Proof.Machine.State

variable (s : State)

@[simp] theorem setStatus_status (v : Status) : (s.setStatus v).status = v := rfl
@[simp] theorem setStatus_width (v : Status) : (s.setStatus v).width = s.width := rfl
@[simp] theorem setStatus_height (v : Status) : (s.setStatus v).height = s.height := rfl
@[simp] theorem setStatus_buflen (v : Status) : (s.setStatus v).buflen = s.buflen := rfl
@[simp] theorem setStatus_errCode (v : Status) : (s.setStatus v).errCode = s.errCode := rfl
@[simp] theorem setStatus_errActual (v : Status) : (s.setStatus v).errActual = s.errActual := rfl
@[simp] theorem setStatus_errExpected (v : Status) : (s.setStatus v).errExpected = s.errExpected := rfl
@[simp] theorem setStatus_p (v : Status) : (s.setStatus v).p = s.p := rfl
@[simp] theorem setStatus_uop (v : Status) : (s.setStatus v).uop = s.uop := rfl
@[simp] theorem setStatus_dp (v : Status) : (s.setStatus v).dp = s.dp := rfl
@[simp] theorem setStatus_fb (v : Status) : (s.setStatus v).fb = s.fb := rfl
@[simp] theorem setStatus_pg (v : Status) : (s.setStatus v).pg = s.pg := rfl
@[simp] theorem setStatus_pgBefore (v : Status) : (s.setStatus v).pgBefore = s.pgBefore := rfl
@[simp] theorem setStatus_settled (v : Status) : (s.setStatus v).settled = s.settled := rfl
@[simp] theorem setStatus_moves (v : Status) : (s.setStatus v).moves = s.moves := rfl
@[simp] theorem setStatus_hostRead (v : Status) : (s.setStatus v).hostRead = s.hostRead := rfl
@[simp] theorem setStatus_draws (v : Status) : (s.setStatus v).draws = s.draws := rfl

@[simp] theorem setWidth_status (v : Word) : (s.setWidth v).status = s.status := rfl
@[simp] theorem setWidth_width (v : Word) : (s.setWidth v).width = v := rfl
@[simp] theorem setWidth_height (v : Word) : (s.setWidth v).height = s.height := rfl
@[simp] theorem setWidth_buflen (v : Word) : (s.setWidth v).buflen = s.buflen := rfl
@[simp] theorem setWidth_errCode (v : Word) : (s.setWidth v).errCode = s.errCode := rfl
@[simp] theorem setWidth_errActual (v : Word) : (s.setWidth v).errActual = s.errActual := rfl
@[simp] theorem setWidth_errExpected (v : Word) : (s.setWidth v).errExpected = s.errExpected := rfl
@[simp] theorem setWidth_p (v : Word) : (s.setWidth v).p = s.p := rfl
@[simp] theorem setWidth_uop (v : Word) : (s.setWidth v).uop = s.uop := rfl
@[simp] theorem setWidth_dp (v : Word) : (s.setWidth v).dp = s.dp := rfl
@[simp] theorem setWidth_fb (v : Word) : (s.setWidth v).fb = s.fb := rfl
@[simp] theorem setWidth_pg (v : Word) : (s.setWidth v).pg = s.pg := rfl
@[simp] theorem setWidth_pgBefore (v : Word) : (s.setWidth v).pgBefore = s.pgBefore := rfl
@[simp] theorem setWidth_settled (v : Word) : (s.setWidth v).settled = s.settled := rfl
@[simp] theorem setWidth_moves (v : Word) : (s.setWidth v).moves = s.moves := rfl
@[simp] theorem setWidth_hostRead (v : Word) : (s.setWidth v).hostRead = s.hostRead := rfl
@[simp] theorem setWidth_draws (v : Word) : (s.setWidth v).draws = s.draws := rfl

@[simp] theorem setHeight_status (v : Word) : (s.setHeight v).status = s.status := rfl
@[simp] theorem setHeight_width (v : Word) : (s.setHeight v).width = s.width := rfl
@[simp] theorem setHeight_height (v : Word) : (s.setHeight v).height = v := rfl
@[simp] theorem setHeight_buflen (v : Word) : (s.setHeight v).buflen = s.buflen := rfl
@[simp] theorem setHeight_errCode (v : Word) : (s.setHeight v).errCode = s.errCode := rfl
@[simp] theorem setHeight_errActual (v : Word) : (s.setHeight v).errActual = s.errActual := rfl
@[simp] theorem setHeight_errExpected (v : Word) : (s.setHeight v).errExpected = s.errExpected := rfl
@[simp] theorem setHeight_p (v : Word) : (s.setHeight v).p = s.p := rfl
@[simp] theorem setHeight_uop (v : Word) : (s.setHeight v).uop = s.uop := rfl
@[simp] theorem setHeight_dp (v : Word) : (s.setHeight v).dp = s.dp := rfl
@[simp] theorem setHeight_fb (v : Word) : (s.setHeight v).fb = s.fb := rfl
@[simp] theorem setHeight_pg (v : Word) : (s.setHeight v).pg = s.pg := rfl
@[simp] theorem setHeight_pgBefore (v : Word) : (s.setHeight v).pgBefore = s.pgBefore := rfl
@[simp] theorem setHeight_settled (v : Word) : (s.setHeight v).settled = s.settled := rfl
@[simp] theorem setHeight_moves (v : Word) : (s.setHeight v).moves = s.moves := rfl
@[simp] theorem setHeight_hostRead (v : Word) : (s.setHeight v).hostRead = s.hostRead := rfl
@[simp] theorem setHeight_draws (v : Word) : (s.setHeight v).draws = s.draws := rfl

@[simp] theorem setBuflen_status (v : Word) : (s.setBuflen v).status = s.status := rfl
@[simp] theorem setBuflen_width (v : Word) : (s.setBuflen v).width = s.width := rfl
@[simp] theorem setBuflen_height (v : Word) : (s.setBuflen v).height = s.height := rfl
@[simp] theorem setBuflen_buflen (v : Word) : (s.setBuflen v).buflen = v := rfl
@[simp] theorem setBuflen_errCode (v : Word) : (s.setBuflen v).errCode = s.errCode := rfl
@[simp] theorem setBuflen_errActual (v : Word) : (s.setBuflen v).errActual = s.errActual := rfl
@[simp] theorem setBuflen_errExpected (v : Word) : (s.setBuflen v).errExpected = s.errExpected := rfl
@[simp] theorem setBuflen_p (v : Word) : (s.setBuflen v).p = s.p := rfl
@[simp] theorem setBuflen_uop (v : Word) : (s.setBuflen v).uop = s.uop := rfl
@[simp] theorem setBuflen_dp (v : Word) : (s.setBuflen v).dp = s.dp := rfl
@[simp] theorem setBuflen_fb (v : Word) : (s.setBuflen v).fb = s.fb := rfl
@[simp] theorem setBuflen_pg (v : Word) : (s.setBuflen v).pg = s.pg := rfl
@[simp] theorem setBuflen_pgBefore (v : Word) : (s.setBuflen v).pgBefore = s.pgBefore := rfl
@[simp] theorem setBuflen_settled (v : Word) : (s.setBuflen v).settled = s.settled := rfl
@[simp] theorem setBuflen_moves (v : Word) : (s.setBuflen v).moves = s.moves := rfl
@[simp] theorem setBuflen_hostRead (v : Word) : (s.setBuflen v).hostRead = s.hostRead := rfl
@[simp] theorem setBuflen_draws (v : Word) : (s.setBuflen v).draws = s.draws := rfl

@[simp] theorem setErrors_status (c : ErrCode) (a e : Word) : (s.setErrors c a e).status = s.status := rfl
@[simp] theorem setErrors_width (c : ErrCode) (a e : Word) : (s.setErrors c a e).width = s.width := rfl
@[simp] theorem setErrors_height (c : ErrCode) (a e : Word) : (s.setErrors c a e).height = s.height := rfl
@[simp] theorem setErrors_buflen (c : ErrCode) (a e : Word) : (s.setErrors c a e).buflen = s.buflen := rfl
@[simp] theorem setErrors_errCode (c : ErrCode) (a e : Word) : (s.setErrors c a e).errCode = c := rfl
@[simp] theorem setErrors_errActual (c : ErrCode) (a e : Word) : (s.setErrors c a e).errActual = a := rfl
@[simp] theorem setErrors_errExpected (c : ErrCode) (a e : Word) : (s.setErrors c a e).errExpected = e := rfl
@[simp] theorem setErrors_p (c : ErrCode) (a e : Word) : (s.setErrors c a e).p = s.p := rfl
@[simp] theorem setErrors_uop (c : ErrCode) (a e : Word) : (s.setErrors c a e).uop = s.uop := rfl
@[simp] theorem setErrors_dp (c : ErrCode) (a e : Word) : (s.setErrors c a e).dp = s.dp := rfl
@[simp] theorem setErrors_fb (c : ErrCode) (a e : Word) : (s.setErrors c a e).fb = s.fb := rfl
@[simp] theorem setErrors_pg (c : ErrCode) (a e : Word) : (s.setErrors c a e).pg = s.pg := rfl
@[simp] theorem setErrors_pgBefore (c : ErrCode) (a e : Word) : (s.setErrors c a e).pgBefore = s.pgBefore := rfl
@[simp] theorem setErrors_settled (c : ErrCode) (a e : Word) : (s.setErrors c a e).settled = s.settled := rfl
@[simp] theorem setErrors_moves (c : ErrCode) (a e : Word) : (s.setErrors c a e).moves = s.moves := rfl
@[simp] theorem setErrors_hostRead (c : ErrCode) (a e : Word) : (s.setErrors c a e).hostRead = s.hostRead := rfl
@[simp] theorem setErrors_draws (c : ErrCode) (a e : Word) : (s.setErrors c a e).draws = s.draws := rfl

@[simp] theorem setP_status (v : Word) : (s.setP v).status = s.status := rfl
@[simp] theorem setP_width (v : Word) : (s.setP v).width = s.width := rfl
@[simp] theorem setP_height (v : Word) : (s.setP v).height = s.height := rfl
@[simp] theorem setP_buflen (v : Word) : (s.setP v).buflen = s.buflen := rfl
@[simp] theorem setP_errCode (v : Word) : (s.setP v).errCode = s.errCode := rfl
@[simp] theorem setP_errActual (v : Word) : (s.setP v).errActual = s.errActual := rfl
@[simp] theorem setP_errExpected (v : Word) : (s.setP v).errExpected = s.errExpected := rfl
@[simp] theorem setP_p (v : Word) : (s.setP v).p = v := rfl
@[simp] theorem setP_uop (v : Word) : (s.setP v).uop = s.uop := rfl
@[simp] theorem setP_dp (v : Word) : (s.setP v).dp = s.dp := rfl
@[simp] theorem setP_fb (v : Word) : (s.setP v).fb = s.fb := rfl
@[simp] theorem setP_pg (v : Word) : (s.setP v).pg = s.pg := rfl
@[simp] theorem setP_pgBefore (v : Word) : (s.setP v).pgBefore = s.pgBefore := rfl
@[simp] theorem setP_settled (v : Word) : (s.setP v).settled = s.settled := rfl
@[simp] theorem setP_moves (v : Word) : (s.setP v).moves = s.moves := rfl
@[simp] theorem setP_hostRead (v : Word) : (s.setP v).hostRead = s.hostRead := rfl
@[simp] theorem setP_draws (v : Word) : (s.setP v).draws = s.draws := rfl

@[simp] theorem setUop_status (v : BitVec 4) : (s.setUop v).status = s.status := rfl
@[simp] theorem setUop_width (v : BitVec 4) : (s.setUop v).width = s.width := rfl
@[simp] theorem setUop_height (v : BitVec 4) : (s.setUop v).height = s.height := rfl
@[simp] theorem setUop_buflen (v : BitVec 4) : (s.setUop v).buflen = s.buflen := rfl
@[simp] theorem setUop_errCode (v : BitVec 4) : (s.setUop v).errCode = s.errCode := rfl
@[simp] theorem setUop_errActual (v : BitVec 4) : (s.setUop v).errActual = s.errActual := rfl
@[simp] theorem setUop_errExpected (v : BitVec 4) : (s.setUop v).errExpected = s.errExpected := rfl
@[simp] theorem setUop_p (v : BitVec 4) : (s.setUop v).p = s.p := rfl
@[simp] theorem setUop_uop (v : BitVec 4) : (s.setUop v).uop = v := rfl
@[simp] theorem setUop_dp (v : BitVec 4) : (s.setUop v).dp = s.dp := rfl
@[simp] theorem setUop_fb (v : BitVec 4) : (s.setUop v).fb = s.fb := rfl
@[simp] theorem setUop_pg (v : BitVec 4) : (s.setUop v).pg = s.pg := rfl
@[simp] theorem setUop_pgBefore (v : BitVec 4) : (s.setUop v).pgBefore = s.pgBefore := rfl
@[simp] theorem setUop_settled (v : BitVec 4) : (s.setUop v).settled = s.settled := rfl
@[simp] theorem setUop_moves (v : BitVec 4) : (s.setUop v).moves = s.moves := rfl
@[simp] theorem setUop_hostRead (v : BitVec 4) : (s.setUop v).hostRead = s.hostRead := rfl
@[simp] theorem setUop_draws (v : BitVec 4) : (s.setUop v).draws = s.draws := rfl

@[simp] theorem setDp_status (v : Datapath) : (s.setDp v).status = s.status := rfl
@[simp] theorem setDp_width (v : Datapath) : (s.setDp v).width = s.width := rfl
@[simp] theorem setDp_height (v : Datapath) : (s.setDp v).height = s.height := rfl
@[simp] theorem setDp_buflen (v : Datapath) : (s.setDp v).buflen = s.buflen := rfl
@[simp] theorem setDp_errCode (v : Datapath) : (s.setDp v).errCode = s.errCode := rfl
@[simp] theorem setDp_errActual (v : Datapath) : (s.setDp v).errActual = s.errActual := rfl
@[simp] theorem setDp_errExpected (v : Datapath) : (s.setDp v).errExpected = s.errExpected := rfl
@[simp] theorem setDp_p (v : Datapath) : (s.setDp v).p = s.p := rfl
@[simp] theorem setDp_uop (v : Datapath) : (s.setDp v).uop = s.uop := rfl
@[simp] theorem setDp_dp (v : Datapath) : (s.setDp v).dp = v := rfl
@[simp] theorem setDp_fb (v : Datapath) : (s.setDp v).fb = s.fb := rfl
@[simp] theorem setDp_pg (v : Datapath) : (s.setDp v).pg = s.pg := rfl
@[simp] theorem setDp_pgBefore (v : Datapath) : (s.setDp v).pgBefore = s.pgBefore := rfl
@[simp] theorem setDp_settled (v : Datapath) : (s.setDp v).settled = s.settled := rfl
@[simp] theorem setDp_moves (v : Datapath) : (s.setDp v).moves = s.moves := rfl
@[simp] theorem setDp_hostRead (v : Datapath) : (s.setDp v).hostRead = s.hostRead := rfl
@[simp] theorem setDp_draws (v : Datapath) : (s.setDp v).draws = s.draws := rfl

@[simp] theorem setFb_status (v : List Host.Cell) : (s.setFb v).status = s.status := rfl
@[simp] theorem setFb_width (v : List Host.Cell) : (s.setFb v).width = s.width := rfl
@[simp] theorem setFb_height (v : List Host.Cell) : (s.setFb v).height = s.height := rfl
@[simp] theorem setFb_buflen (v : List Host.Cell) : (s.setFb v).buflen = s.buflen := rfl
@[simp] theorem setFb_errCode (v : List Host.Cell) : (s.setFb v).errCode = s.errCode := rfl
@[simp] theorem setFb_errActual (v : List Host.Cell) : (s.setFb v).errActual = s.errActual := rfl
@[simp] theorem setFb_errExpected (v : List Host.Cell) : (s.setFb v).errExpected = s.errExpected := rfl
@[simp] theorem setFb_p (v : List Host.Cell) : (s.setFb v).p = s.p := rfl
@[simp] theorem setFb_uop (v : List Host.Cell) : (s.setFb v).uop = s.uop := rfl
@[simp] theorem setFb_dp (v : List Host.Cell) : (s.setFb v).dp = s.dp := rfl
@[simp] theorem setFb_fb (v : List Host.Cell) : (s.setFb v).fb = v := rfl
@[simp] theorem setFb_pg (v : List Host.Cell) : (s.setFb v).pg = s.pg := rfl
@[simp] theorem setFb_pgBefore (v : List Host.Cell) : (s.setFb v).pgBefore = s.pgBefore := rfl
@[simp] theorem setFb_settled (v : List Host.Cell) : (s.setFb v).settled = s.settled := rfl
@[simp] theorem setFb_moves (v : List Host.Cell) : (s.setFb v).moves = s.moves := rfl
@[simp] theorem setFb_hostRead (v : List Host.Cell) : (s.setFb v).hostRead = s.hostRead := rfl
@[simp] theorem setFb_draws (v : List Host.Cell) : (s.setFb v).draws = s.draws := rfl

@[simp] theorem setPg_status (v : List (Nat × Word)) : (s.setPg v).status = s.status := rfl
@[simp] theorem setPg_width (v : List (Nat × Word)) : (s.setPg v).width = s.width := rfl
@[simp] theorem setPg_height (v : List (Nat × Word)) : (s.setPg v).height = s.height := rfl
@[simp] theorem setPg_buflen (v : List (Nat × Word)) : (s.setPg v).buflen = s.buflen := rfl
@[simp] theorem setPg_errCode (v : List (Nat × Word)) : (s.setPg v).errCode = s.errCode := rfl
@[simp] theorem setPg_errActual (v : List (Nat × Word)) : (s.setPg v).errActual = s.errActual := rfl
@[simp] theorem setPg_errExpected (v : List (Nat × Word)) : (s.setPg v).errExpected = s.errExpected := rfl
@[simp] theorem setPg_p (v : List (Nat × Word)) : (s.setPg v).p = s.p := rfl
@[simp] theorem setPg_uop (v : List (Nat × Word)) : (s.setPg v).uop = s.uop := rfl
@[simp] theorem setPg_dp (v : List (Nat × Word)) : (s.setPg v).dp = s.dp := rfl
@[simp] theorem setPg_fb (v : List (Nat × Word)) : (s.setPg v).fb = s.fb := rfl
@[simp] theorem setPg_pg (v : List (Nat × Word)) : (s.setPg v).pg = v := rfl
@[simp] theorem setPg_pgBefore (v : List (Nat × Word)) : (s.setPg v).pgBefore = s.pgBefore := rfl
@[simp] theorem setPg_settled (v : List (Nat × Word)) : (s.setPg v).settled = s.settled := rfl
@[simp] theorem setPg_moves (v : List (Nat × Word)) : (s.setPg v).moves = s.moves := rfl
@[simp] theorem setPg_hostRead (v : List (Nat × Word)) : (s.setPg v).hostRead = s.hostRead := rfl
@[simp] theorem setPg_draws (v : List (Nat × Word)) : (s.setPg v).draws = s.draws := rfl

@[simp] theorem setPgBefore_status (v : List (Nat × Word)) : (s.setPgBefore v).status = s.status := rfl
@[simp] theorem setPgBefore_width (v : List (Nat × Word)) : (s.setPgBefore v).width = s.width := rfl
@[simp] theorem setPgBefore_height (v : List (Nat × Word)) : (s.setPgBefore v).height = s.height := rfl
@[simp] theorem setPgBefore_buflen (v : List (Nat × Word)) : (s.setPgBefore v).buflen = s.buflen := rfl
@[simp] theorem setPgBefore_errCode (v : List (Nat × Word)) : (s.setPgBefore v).errCode = s.errCode := rfl
@[simp] theorem setPgBefore_errActual (v : List (Nat × Word)) : (s.setPgBefore v).errActual = s.errActual := rfl
@[simp] theorem setPgBefore_errExpected (v : List (Nat × Word)) : (s.setPgBefore v).errExpected = s.errExpected := rfl
@[simp] theorem setPgBefore_p (v : List (Nat × Word)) : (s.setPgBefore v).p = s.p := rfl
@[simp] theorem setPgBefore_uop (v : List (Nat × Word)) : (s.setPgBefore v).uop = s.uop := rfl
@[simp] theorem setPgBefore_dp (v : List (Nat × Word)) : (s.setPgBefore v).dp = s.dp := rfl
@[simp] theorem setPgBefore_fb (v : List (Nat × Word)) : (s.setPgBefore v).fb = s.fb := rfl
@[simp] theorem setPgBefore_pg (v : List (Nat × Word)) : (s.setPgBefore v).pg = s.pg := rfl
@[simp] theorem setPgBefore_pgBefore (v : List (Nat × Word)) : (s.setPgBefore v).pgBefore = v := rfl
@[simp] theorem setPgBefore_settled (v : List (Nat × Word)) : (s.setPgBefore v).settled = s.settled := rfl
@[simp] theorem setPgBefore_moves (v : List (Nat × Word)) : (s.setPgBefore v).moves = s.moves := rfl
@[simp] theorem setPgBefore_hostRead (v : List (Nat × Word)) : (s.setPgBefore v).hostRead = s.hostRead := rfl
@[simp] theorem setPgBefore_draws (v : List (Nat × Word)) : (s.setPgBefore v).draws = s.draws := rfl

@[simp] theorem setSettled_status (v : List Nat) : (s.setSettled v).status = s.status := rfl
@[simp] theorem setSettled_width (v : List Nat) : (s.setSettled v).width = s.width := rfl
@[simp] theorem setSettled_height (v : List Nat) : (s.setSettled v).height = s.height := rfl
@[simp] theorem setSettled_buflen (v : List Nat) : (s.setSettled v).buflen = s.buflen := rfl
@[simp] theorem setSettled_errCode (v : List Nat) : (s.setSettled v).errCode = s.errCode := rfl
@[simp] theorem setSettled_errActual (v : List Nat) : (s.setSettled v).errActual = s.errActual := rfl
@[simp] theorem setSettled_errExpected (v : List Nat) : (s.setSettled v).errExpected = s.errExpected := rfl
@[simp] theorem setSettled_p (v : List Nat) : (s.setSettled v).p = s.p := rfl
@[simp] theorem setSettled_uop (v : List Nat) : (s.setSettled v).uop = s.uop := rfl
@[simp] theorem setSettled_dp (v : List Nat) : (s.setSettled v).dp = s.dp := rfl
@[simp] theorem setSettled_fb (v : List Nat) : (s.setSettled v).fb = s.fb := rfl
@[simp] theorem setSettled_pg (v : List Nat) : (s.setSettled v).pg = s.pg := rfl
@[simp] theorem setSettled_pgBefore (v : List Nat) : (s.setSettled v).pgBefore = s.pgBefore := rfl
@[simp] theorem setSettled_settled (v : List Nat) : (s.setSettled v).settled = v := rfl
@[simp] theorem setSettled_moves (v : List Nat) : (s.setSettled v).moves = s.moves := rfl
@[simp] theorem setSettled_hostRead (v : List Nat) : (s.setSettled v).hostRead = s.hostRead := rfl
@[simp] theorem setSettled_draws (v : List Nat) : (s.setSettled v).draws = s.draws := rfl

@[simp] theorem setMoves_status (v : List Move) : (s.setMoves v).status = s.status := rfl
@[simp] theorem setMoves_width (v : List Move) : (s.setMoves v).width = s.width := rfl
@[simp] theorem setMoves_height (v : List Move) : (s.setMoves v).height = s.height := rfl
@[simp] theorem setMoves_buflen (v : List Move) : (s.setMoves v).buflen = s.buflen := rfl
@[simp] theorem setMoves_errCode (v : List Move) : (s.setMoves v).errCode = s.errCode := rfl
@[simp] theorem setMoves_errActual (v : List Move) : (s.setMoves v).errActual = s.errActual := rfl
@[simp] theorem setMoves_errExpected (v : List Move) : (s.setMoves v).errExpected = s.errExpected := rfl
@[simp] theorem setMoves_p (v : List Move) : (s.setMoves v).p = s.p := rfl
@[simp] theorem setMoves_uop (v : List Move) : (s.setMoves v).uop = s.uop := rfl
@[simp] theorem setMoves_dp (v : List Move) : (s.setMoves v).dp = s.dp := rfl
@[simp] theorem setMoves_fb (v : List Move) : (s.setMoves v).fb = s.fb := rfl
@[simp] theorem setMoves_pg (v : List Move) : (s.setMoves v).pg = s.pg := rfl
@[simp] theorem setMoves_pgBefore (v : List Move) : (s.setMoves v).pgBefore = s.pgBefore := rfl
@[simp] theorem setMoves_settled (v : List Move) : (s.setMoves v).settled = s.settled := rfl
@[simp] theorem setMoves_moves (v : List Move) : (s.setMoves v).moves = v := rfl
@[simp] theorem setMoves_hostRead (v : List Move) : (s.setMoves v).hostRead = s.hostRead := rfl
@[simp] theorem setMoves_draws (v : List Move) : (s.setMoves v).draws = s.draws := rfl

@[simp] theorem setHostRead_status (v : Option Word) : (s.setHostRead v).status = s.status := rfl
@[simp] theorem setHostRead_width (v : Option Word) : (s.setHostRead v).width = s.width := rfl
@[simp] theorem setHostRead_height (v : Option Word) : (s.setHostRead v).height = s.height := rfl
@[simp] theorem setHostRead_buflen (v : Option Word) : (s.setHostRead v).buflen = s.buflen := rfl
@[simp] theorem setHostRead_errCode (v : Option Word) : (s.setHostRead v).errCode = s.errCode := rfl
@[simp] theorem setHostRead_errActual (v : Option Word) : (s.setHostRead v).errActual = s.errActual := rfl
@[simp] theorem setHostRead_errExpected (v : Option Word) : (s.setHostRead v).errExpected = s.errExpected := rfl
@[simp] theorem setHostRead_p (v : Option Word) : (s.setHostRead v).p = s.p := rfl
@[simp] theorem setHostRead_uop (v : Option Word) : (s.setHostRead v).uop = s.uop := rfl
@[simp] theorem setHostRead_dp (v : Option Word) : (s.setHostRead v).dp = s.dp := rfl
@[simp] theorem setHostRead_fb (v : Option Word) : (s.setHostRead v).fb = s.fb := rfl
@[simp] theorem setHostRead_pg (v : Option Word) : (s.setHostRead v).pg = s.pg := rfl
@[simp] theorem setHostRead_pgBefore (v : Option Word) : (s.setHostRead v).pgBefore = s.pgBefore := rfl
@[simp] theorem setHostRead_settled (v : Option Word) : (s.setHostRead v).settled = s.settled := rfl
@[simp] theorem setHostRead_moves (v : Option Word) : (s.setHostRead v).moves = s.moves := rfl
@[simp] theorem setHostRead_hostRead (v : Option Word) : (s.setHostRead v).hostRead = v := rfl
@[simp] theorem setHostRead_draws (v : Option Word) : (s.setHostRead v).draws = s.draws := rfl

@[simp] theorem setDraws_status (v : Nat) : (s.setDraws v).status = s.status := rfl
@[simp] theorem setDraws_width (v : Nat) : (s.setDraws v).width = s.width := rfl
@[simp] theorem setDraws_height (v : Nat) : (s.setDraws v).height = s.height := rfl
@[simp] theorem setDraws_buflen (v : Nat) : (s.setDraws v).buflen = s.buflen := rfl
@[simp] theorem setDraws_errCode (v : Nat) : (s.setDraws v).errCode = s.errCode := rfl
@[simp] theorem setDraws_errActual (v : Nat) : (s.setDraws v).errActual = s.errActual := rfl
@[simp] theorem setDraws_errExpected (v : Nat) : (s.setDraws v).errExpected = s.errExpected := rfl
@[simp] theorem setDraws_p (v : Nat) : (s.setDraws v).p = s.p := rfl
@[simp] theorem setDraws_uop (v : Nat) : (s.setDraws v).uop = s.uop := rfl
@[simp] theorem setDraws_dp (v : Nat) : (s.setDraws v).dp = s.dp := rfl
@[simp] theorem setDraws_fb (v : Nat) : (s.setDraws v).fb = s.fb := rfl
@[simp] theorem setDraws_pg (v : Nat) : (s.setDraws v).pg = s.pg := rfl
@[simp] theorem setDraws_pgBefore (v : Nat) : (s.setDraws v).pgBefore = s.pgBefore := rfl
@[simp] theorem setDraws_settled (v : Nat) : (s.setDraws v).settled = s.settled := rfl
@[simp] theorem setDraws_moves (v : Nat) : (s.setDraws v).moves = s.moves := rfl
@[simp] theorem setDraws_hostRead (v : Nat) : (s.setDraws v).hostRead = s.hostRead := rfl
@[simp] theorem setDraws_draws (v : Nat) : (s.setDraws v).draws = v := rfl

end Sys2Proof.Machine.State
end

