-- ==== Sys2Proof/Laws/Ops.lean ====
section
/-! SUPPORT. What each shared operation can do, said once: the comparisons as propositions, the enabling conditions, the
two reads of the frame buffer, the commands, a register write, and what a step does with what it fetched. -/

namespace Sys2Proof.Machine

/-! ## Comparisons -/

theorem dimsOk_iff (m w h : Nat) :
    dimsOk m w h = true ↔ (1 ≤ w ∧ w ≤ m) ∧ (1 ≤ h ∧ h ≤ m) ∧ w % 2 = 0 ∧ h % 4 = 0 := by
  simp [dimsOk, Bool.and_eq_true, and_assoc]

theorem State.dimsPass_iff (s : State) :
    s.dimsPass = true ↔ (1 ≤ s.width.toNat ∧ s.width.toNat ≤ 32767) ∧
      (1 ≤ s.height.toNat ∧ s.height.toNat ≤ 32767) ∧ s.width.toNat % 2 = 0 ∧ s.height.toNat % 4 = 0 :=
  dimsOk_iff Config.dimMax _ _

theorem State.sizePass_iff (s : State) :
    s.sizePass = true ↔ s.buflen.toNat = expectedSize s.width.toNat s.height.toNat := decide_eq_true_iff

theorem State.pixelEnabled_iff (s : State) :
    s.pixelEnabled = true ↔ s.status = .busy ∧ s.p.toNat < s.frameSize := by
  simp [State.pixelEnabled]

theorem State.finishEnabled_iff (s : State) :
    s.finishEnabled = true ↔ s.status = .busy ∧ s.p.toNat = s.frameSize := by
  simp [State.finishEnabled]

theorem State.pixelStepOpen_iff (s : State) :
    s.pixelStepOpen = true ↔ s.status = .busy ∧ s.uop ≠ 0 ∧ s.uop ≠ 15 := by
  simp [State.pixelStepOpen, and_assoc]

/-- The expected size of a legal frame fits a 32-bit register (R114). -/
theorem expectedSize_lt {m w h : Nat} (hm : m ≤ 32767) (h' : dimsOk m w h = true) : expectedSize w h < 2 ^ 31 := by
  rw [dimsOk_iff] at h'
  have : w * h ≤ 32767 * 32767 := Nat.mul_le_mul (by omega) (by omega)
  unfold expectedSize; omega

/-! ## Micro-operations -/

/-- A micro-operation goes on exactly where the pixel step is enabled and its effect goes on. -/
theorem State.microOp_eq_next (s : State) (o : Host.Outcome State Fault Refusal) (t : State) :
    s.microOp o = .next t ↔ (s.status = .busy ∧ s.p.toNat < s.frameSize) ∧ o = .next t := by
  rw [← State.pixelEnabled_iff]
  unfold State.microOp
  split <;> simp_all

theorem State.microOp_of_enabled (s : State) (o : Host.Outcome State Fault Refusal) (h : s.status = .busy)
    (hp : s.p.toNat < s.frameSize) : s.microOp o = o := by
  unfold State.microOp
  rw [if_pos ((State.pixelEnabled_iff s).mpr ⟨h, hp⟩)]

theorem State.microOp_of_not_enabled (s : State) (o : Host.Outcome State Fault Refusal)
    (h : ¬(s.status = .busy ∧ s.p.toNat < s.frameSize)) : s.microOp o = .fault .microOpNotEnabled := by
  unfold State.microOp
  rw [if_neg (fun hh => h ((State.pixelEnabled_iff s).mp hh))]

/-! ## The frame buffer -/

theorem State.memRead1_of_lt (s : State) {a : Nat} (h : a < s.buflen.toNat) : s.memRead1 a = some (s.frameByte a) :=
  if_pos h

theorem State.memRead1_of_ge (s : State) {a : Nat} (h : s.buflen.toNat ≤ a) : s.memRead1 a = none :=
  if_neg (by omega)

theorem State.memRead2_of_lt (s : State) {a : Nat} (h : a + 1 < s.buflen.toNat) :
    s.memRead2 a = some (s.frameByte (a + 1) ++ s.frameByte a) := if_pos h

theorem State.memRead2_of_ge (s : State) {a : Nat} (h : s.buflen.toNat ≤ a + 1) : s.memRead2 a = none :=
  if_neg (by omega)

/-- A written byte reads as what was written last. -/
theorem State.frameByte_of_read (s : State) {a : Nat} {b : Byte} (h : Memory.read s.fb a = some b) :
    s.frameByte a = b := by
  simp [State.frameByte, h]

/-- The bytes of FB depend on FB alone. -/
theorem State.frameByte_congr {s t : State} (h : t.fb = s.fb) : t.frameByte = s.frameByte := by
  funext a; simp [State.frameByte, h]

/-! ## Commands and register accesses -/

/-- What START can do: nothing in BUSY; else one of its two errors, or the beginning of a conversion. -/
theorem State.startCommand_cases (s : State) :
    (s.status = .busy ∧ s.startCommand = s) ∨
    (s.status ≠ .busy ∧ s.dimsPass = false ∧ s.startCommand = s.clearErrors.raiseError .invalidDimensions 0 0) ∨
    (s.status ≠ .busy ∧ s.dimsPass = true ∧ s.sizePass = false ∧
      s.startCommand = s.clearErrors.raiseError .sizeMismatch s.buflen
        (BitVec.ofNat 32 (expectedSize s.width.toNat s.height.toNat))) ∨
    (s.status ≠ .busy ∧ s.dimsPass = true ∧ s.sizePass = true ∧ s.startCommand = s.clearErrors.beginConversion) := by
  have e1 : s.clearErrors.dimsPass = s.dimsPass := rfl
  have e2 : s.clearErrors.sizePass = s.sizePass := rfl
  by_cases h : s.status = .busy
  · exact .inl ⟨h, by simp [State.startCommand, h]⟩
  · right
    simp only [State.startCommand, if_neg h, State.checkAndBegin, e1, e2]
    cases hd : s.dimsPass <;> cases hs : s.sizePass <;> (simp [h]; try rfl)

/-- What CLEAR can do: leave DONE or ERROR, or nothing. -/
theorem State.clearCommand_cases (s : State) :
    ((s.status = .done ∨ s.status = .error) ∧ s.clearCommand = s.leaveToIdle) ∨
    ((s.status = .idle ∨ s.status = .busy) ∧ s.clearCommand = s) := by
  unfold State.clearCommand
  cases h : s.status <;> simp

/-- A CTRL word is START, CLEAR or NOP. -/
theorem decodeCtrl_cases (d : Word) :
    (∃ c r, decodeCtrl d = .start c r) ∨ (∃ r, decodeCtrl d = .clear r) ∨ (∃ r, decodeCtrl d = .nop r) := by
  unfold decodeCtrl
  split
  · exact .inl ⟨_, _, rfl⟩
  · split
    · exact .inr (.inl ⟨_, rfl⟩)
    · exact .inr (.inr ⟨_, rfl⟩)

theorem getLsbD_zero_iff (d : Word) : d.getLsbD 0 = true ↔ d.toNat % 2 = 1 := by
  rw [BitVec.getLsbD, Nat.testBit]; simp

theorem getLsbD_one_iff (d : Word) : d.getLsbD 1 = true ↔ d.toNat / 2 % 2 = 1 := by
  rw [BitVec.getLsbD, Nat.testBit]; simp [Nat.shiftRight_eq_div_pow]

/-- What a write to CTRL does, by the two command bits. -/
theorem State.command_cases (s : State) (d : Word) :
    (d.toNat % 2 = 1 ∧ s.command d = s.startCommand) ∨ (d.toNat % 4 = 2 ∧ s.command d = s.clearCommand) ∨
      (d.toNat % 4 = 0 ∧ s.command d = s) := by
  unfold State.command decodeCtrl
  by_cases h0 : d.getLsbD 0 = true
  · exact .inl ⟨(getLsbD_zero_iff d).mp h0, by rw [if_pos h0]⟩
  · have n0 : ¬d.toNat % 2 = 1 := fun h => h0 ((getLsbD_zero_iff d).mpr h)
    rw [if_neg h0]
    by_cases h1 : d.getLsbD 1 = true
    · have n1 := (getLsbD_one_iff d).mp h1
      exact .inr (.inl ⟨by omega, by rw [if_pos h1]⟩)
    · have n1 : ¬d.toNat / 2 % 2 = 1 := fun h => h1 ((getLsbD_one_iff d).mpr h)
      exact .inr (.inr ⟨by omega, by rw [if_neg h1]⟩)

/-- What a register write can do: a command, a new WIDTH, HEIGHT or BUFLEN outside BUSY, or nothing. -/
theorem State.writeReg_cases (s : State) (r : HostReg) (d : Word) :
    (r = .ctrl ∧ s.writeReg r d = s.command d) ∨
    (s.status ≠ .busy ∧ r = .width ∧ s.writeReg r d = s.setWidth d) ∨
    (s.status ≠ .busy ∧ r = .height ∧ s.writeReg r d = s.setHeight d) ∨
    (s.status ≠ .busy ∧ r = .buflen ∧ s.writeReg r d = s.setBuflen d) ∨
    s.writeReg r d = s := by
  by_cases h : s.status = .busy <;> cases r <;> simp [State.writeReg, State.writeUnlessBusy, h]

/-- Every header of the bus names one of the eight registers. -/
theorem hostRegAt_of_header (h : BitVec 4) : (hostRegAt (4 * (h.extractLsb' 0 3).toNat)).isSome = true := by
  revert h; decide

/-! ## The open order of pixel steps -/

theorem State.isSettled_iff (s : State) (i : Nat) : s.isSettled i = true ↔ i ∈ s.settled := decide_eq_true_iff

/-- What a pixel step stores: the pixel word in entry `P`, or nothing where that entry is decided already. -/
theorem State.storePixel_cases (s : State) :
    (s.p.toNat ∈ s.settled ∧ s.storePixel = s) ∨
    (s.p.toNat ∉ s.settled ∧ s.storePixel = s.memWrite s.p.toNat s.dp.pw) := by
  unfold State.storePixel
  by_cases h : s.p.toNat ∈ s.settled
  · exact .inl ⟨h, if_pos ((s.isSettled_iff _).mpr h)⟩
  · exact .inr ⟨h, if_neg (fun hh => h ((s.isSettled_iff _).mp hh))⟩

/-- The pixels settled after a host write: those of the frame whose step stands before it. -/
theorem State.mem_settle (s : State) (hit : Nat → Bool) (i : Nat) :
    i ∈ (s.settle hit).settled ↔ i < s.frameSize ∧ (i ∈ s.settled ∨ (hit i = true ∧ s.choice i = true)) := by
  simp [State.settle, State.stepIsBefore, State.isSettled]

/-- A host write to FB in BUSY changes FB, PG and the model's own record of the open order, and no register. -/
theorem State.raceOnFrame_eq (s : State) (addr : Nat) (bytes : List Byte) :
    s.raceOnFrame addr bytes =
      { s with
        fb := Memory.writeList s.fb addr bytes
        pg := (s.raceOnFrame addr bytes).pg
        settled := (s.raceOnFrame addr bytes).settled
        draws := (s.raceOnFrame addr bytes).draws } := rfl

@[simp] theorem State.raceOnFrame_status (s : State) (a : Nat) (b : List Byte) : (s.raceOnFrame a b).status = s.status := rfl
@[simp] theorem State.raceOnFrame_width (s : State) (a : Nat) (b : List Byte) : (s.raceOnFrame a b).width = s.width := rfl
@[simp] theorem State.raceOnFrame_height (s : State) (a : Nat) (b : List Byte) : (s.raceOnFrame a b).height = s.height := rfl
@[simp] theorem State.raceOnFrame_buflen (s : State) (a : Nat) (b : List Byte) : (s.raceOnFrame a b).buflen = s.buflen := rfl
@[simp] theorem State.raceOnFrame_errCode (s : State) (a : Nat) (b : List Byte) : (s.raceOnFrame a b).errCode = s.errCode := rfl
@[simp] theorem State.raceOnFrame_errActual (s : State) (a : Nat) (b : List Byte) : (s.raceOnFrame a b).errActual = s.errActual := rfl
@[simp] theorem State.raceOnFrame_errExpected (s : State) (a : Nat) (b : List Byte) : (s.raceOnFrame a b).errExpected = s.errExpected := rfl
@[simp] theorem State.raceOnFrame_p (s : State) (a : Nat) (b : List Byte) : (s.raceOnFrame a b).p = s.p := rfl
@[simp] theorem State.raceOnFrame_uop (s : State) (a : Nat) (b : List Byte) : (s.raceOnFrame a b).uop = s.uop := rfl
@[simp] theorem State.raceOnFrame_dp (s : State) (a : Nat) (b : List Byte) : (s.raceOnFrame a b).dp = s.dp := rfl
@[simp] theorem State.raceOnFrame_moves (s : State) (a : Nat) (b : List Byte) : (s.raceOnFrame a b).moves = s.moves := rfl
@[simp] theorem State.raceOnFrame_hostRead (s : State) (a : Nat) (b : List Byte) : (s.raceOnFrame a b).hostRead = s.hostRead := rfl
@[simp] theorem State.raceOnFrame_pgBefore (s : State) (a : Nat) (b : List Byte) : (s.raceOnFrame a b).pgBefore = s.pgBefore := rfl

/-- A host write to PG in BUSY changes PG and the model's own record of the open order, and no register. -/
theorem State.raceOnGrid_eq (s : State) (i : Nat) (v : Word) :
    s.raceOnGrid i v =
      { s with
        pg := Memory.write s.pg i (s.entryAfterPgWrite (fun j => decide (j = i)) i v)
        pgBefore := Memory.write s.pgBefore i v
        settled := (s.raceOnGrid i v).settled
        draws := (s.raceOnGrid i v).draws } := rfl

@[simp] theorem State.raceOnGrid_status (s : State) (i : Nat) (v : Word) : (s.raceOnGrid i v).status = s.status := rfl
@[simp] theorem State.raceOnGrid_width (s : State) (i : Nat) (v : Word) : (s.raceOnGrid i v).width = s.width := rfl
@[simp] theorem State.raceOnGrid_height (s : State) (i : Nat) (v : Word) : (s.raceOnGrid i v).height = s.height := rfl
@[simp] theorem State.raceOnGrid_buflen (s : State) (i : Nat) (v : Word) : (s.raceOnGrid i v).buflen = s.buflen := rfl
@[simp] theorem State.raceOnGrid_errCode (s : State) (i : Nat) (v : Word) : (s.raceOnGrid i v).errCode = s.errCode := rfl
@[simp] theorem State.raceOnGrid_errActual (s : State) (i : Nat) (v : Word) : (s.raceOnGrid i v).errActual = s.errActual := rfl
@[simp] theorem State.raceOnGrid_errExpected (s : State) (i : Nat) (v : Word) : (s.raceOnGrid i v).errExpected = s.errExpected := rfl
@[simp] theorem State.raceOnGrid_p (s : State) (i : Nat) (v : Word) : (s.raceOnGrid i v).p = s.p := rfl
@[simp] theorem State.raceOnGrid_uop (s : State) (i : Nat) (v : Word) : (s.raceOnGrid i v).uop = s.uop := rfl
@[simp] theorem State.raceOnGrid_dp (s : State) (i : Nat) (v : Word) : (s.raceOnGrid i v).dp = s.dp := rfl
@[simp] theorem State.raceOnGrid_moves (s : State) (i : Nat) (v : Word) : (s.raceOnGrid i v).moves = s.moves := rfl
@[simp] theorem State.raceOnGrid_hostRead (s : State) (i : Nat) (v : Word) : (s.raceOnGrid i v).hostRead = s.hostRead := rfl
@[simp] theorem State.raceOnGrid_fb (s : State) (i : Nat) (v : Word) : (s.raceOnGrid i v).fb = s.fb := rfl

/-- The pixel store changes PG at most. -/
theorem State.storePixel_eq (s : State) : s.storePixel = { s with pg := s.storePixel.pg } := by
  unfold State.storePixel; split <;> rfl

@[simp] theorem State.storePixel_status (s : State) : s.storePixel.status = s.status := by rw [s.storePixel_eq]
@[simp] theorem State.storePixel_width (s : State) : s.storePixel.width = s.width := by rw [s.storePixel_eq]
@[simp] theorem State.storePixel_height (s : State) : s.storePixel.height = s.height := by rw [s.storePixel_eq]
@[simp] theorem State.storePixel_buflen (s : State) : s.storePixel.buflen = s.buflen := by rw [s.storePixel_eq]
@[simp] theorem State.storePixel_errCode (s : State) : s.storePixel.errCode = s.errCode := by rw [s.storePixel_eq]
@[simp] theorem State.storePixel_errActual (s : State) : s.storePixel.errActual = s.errActual := by rw [s.storePixel_eq]
@[simp] theorem State.storePixel_errExpected (s : State) : s.storePixel.errExpected = s.errExpected := by rw [s.storePixel_eq]
@[simp] theorem State.storePixel_p (s : State) : s.storePixel.p = s.p := by rw [s.storePixel_eq]
@[simp] theorem State.storePixel_uop (s : State) : s.storePixel.uop = s.uop := by rw [s.storePixel_eq]
@[simp] theorem State.storePixel_dp (s : State) : s.storePixel.dp = s.dp := by rw [s.storePixel_eq]
@[simp] theorem State.storePixel_fb (s : State) : s.storePixel.fb = s.fb := by rw [s.storePixel_eq]
@[simp] theorem State.storePixel_pgBefore (s : State) : s.storePixel.pgBefore = s.pgBefore := by rw [s.storePixel_eq]
@[simp] theorem State.storePixel_settled (s : State) : s.storePixel.settled = s.settled := by rw [s.storePixel_eq]
@[simp] theorem State.storePixel_moves (s : State) : s.storePixel.moves = s.moves := by rw [s.storePixel_eq]
@[simp] theorem State.storePixel_hostRead (s : State) : s.storePixel.hostRead = s.hostRead := by rw [s.storePixel_eq]
@[simp] theorem State.storePixel_draws (s : State) : s.storePixel.draws = s.draws := by rw [s.storePixel_eq]

/-- An entry after a host write to FB in BUSY, by where the step of its pixel stands (R64). -/
theorem State.gridEntry_raceOnFrame (s : State) (addr : Nat) (bytes : List Byte) (i : Nat) :
    let hit := s.pixelDependsOn addr bytes.length
    (s.raceOnFrame addr bytes).gridEntry i =
      if i < s.frameSize then s.entryAfterFbWrite (s.writeFrame addr bytes) hit i else s.gridEntry i :=
  Memory.read_replaceBelow _ _ _ _

/-- An entry after a host write to PG in BUSY (R65). -/
theorem State.gridEntry_raceOnGrid (s : State) (i : Nat) (v : Word) (j : Nat) :
    (s.raceOnGrid i v).gridEntry j =
      if j = i then some (s.entryAfterPgWrite (fun k => decide (k = i)) i v) else s.gridEntry j := by
  by_cases h : j = i
  · subst h; rw [if_pos rfl]; exact Memory.read_write_same _ _ _
  · rw [if_neg h]; exact Memory.read_write_other _ _ h

/-- An entry after reset (R221, R222). -/
theorem State.gridEntry_hostReset (s : State) (i : Nat) :
    s.hostReset.gridEntry i =
      if s.status = .busy ∧ i < s.frameSize then s.entryAfterReset i else s.gridEntry i := by
  show Memory.read s.gridAfterReset i = _
  unfold State.gridAfterReset
  by_cases h : s.status = .busy
  · rw [if_pos h, Memory.read_replaceBelow]; simp [h, State.gridEntry]
  · rw [if_neg h, if_neg (fun hh => h hh.1)]; rfl

/-- The pixel of a frame depends on the two dimensions and on the bytes its step reads alone. -/
theorem State.pixelWord_congr {s t : State} {i : Nat} (hw : t.width = s.width) (hh : t.height = s.height)
    (h : ∀ a, a ∈ s.pixelReads i → t.frameByte a = s.frameByte a) : t.pixelWord i = s.pixelWord i := by
  simp only [State.pixelReads, List.mem_cons, List.not_mem_nil, or_false, forall_eq_or_imp, forall_eq] at h
  simp only [State.pixelWord, pixelWordAt, pixelAt, hw, hh, h.1, h.2.1, h.2.2]

/-- A write to FB leaves the pixels that do not depend on it. -/
theorem State.pixelWord_writeFrame (s : State) (addr : Nat) (bytes : List Byte) (i : Nat)
    (h : s.pixelDependsOn addr bytes.length i = false) : (s.writeFrame addr bytes).pixelWord i = s.pixelWord i := by
  refine State.pixelWord_congr (s := s) (t := s.writeFrame addr bytes) rfl rfl (fun a ha => ?_)
  have out : a < addr ∨ addr + bytes.length ≤ a := by
    have := List.any_eq_false.mp h a ha
    simp at this; omega
  simp only [State.frameByte, State.writeFrame, State.setFb_fb, Memory.read_writeList_outside _ _ out]

/-! ## The outside world -/

/-- What an event of the outside world can do when it goes on. -/
theorem State.hostEvent_cases (s : State) (e : HostEvent) (t : State) (h : s.hostEvent e = .next t) :
    (∃ addr bytes, e = .fbWrite addr bytes ∧ addr + bytes.length ≤ frameBufferEnd ∧
      ((s.status = .busy ∧ t = s.raceOnFrame addr bytes) ∨ (s.status ≠ .busy ∧ t = s.writeFrame addr bytes))) ∨
    (∃ v n, (t = (s.setHostRead (some v)).setDraws n) ∧ e ≠ .reset) ∨
    (∃ i v, e = .pgWrite i v ∧ i < pixelGridEnd ∧
      (((s.status = .busy ∧ i < s.frameSize) ∧ t = s.raceOnGrid i v) ∨
        (¬(s.status = .busy ∧ i < s.frameSize) ∧ t = s.memWrite i v))) ∨
    (e = .reset ∧ t = s.hostReset) := by
  cases e with
  | fbWrite addr bytes =>
    simp only [State.hostEvent, State.hostFbWrite] at h
    split at h
    · cases h
      refine .inl ⟨_, _, rfl, ‹_›, ?_⟩
      by_cases hb : s.status = .busy
      · exact .inl ⟨hb, if_pos hb⟩
      · exact .inr ⟨hb, if_neg hb⟩
    · cases h
  | fbRead addr =>
    simp only [State.hostEvent, State.hostFbRead] at h
    split at h
    · cases h; exact .inr (.inl ⟨_, s.draws, rfl, by simp⟩)
    · cases h
  | pgRead i =>
    simp only [State.hostEvent, State.hostPgRead] at h
    split at h
    · split at h
      · cases h; exact .inr (.inl ⟨_, _, rfl, by simp⟩)
      · split at h
        · cases h; exact .inr (.inl ⟨_, _, rfl, by simp⟩)
        · cases h; exact .inr (.inl ⟨_, s.draws, rfl, by simp⟩)
    · cases h
  | pgWrite i v =>
    simp only [State.hostEvent, State.hostPgWrite] at h
    split at h
    · cases h
      refine .inr (.inr (.inl ⟨i, v, rfl, ‹_›, ?_⟩))
      by_cases hb : s.status = .busy ∧ i < s.frameSize
      · exact .inl ⟨hb, if_pos hb⟩
      · exact .inr ⟨hb, if_neg hb⟩
    · cases h
  | reset =>
    simp only [State.hostEvent, Host.Outcome.next.injEq] at h
    exact .inr (.inr (.inr ⟨rfl, h.symm⟩))

/-! ## Fetching and stepping -/

theorem State.fetch_of_open (s : State) (h : s.pixelStepOpen = true) : s.fetch = (.word (.uop s.uop), s.moves) := by
  unfold State.fetch; rw [if_pos h]

theorem State.fetch_of_empty (s : State) (h : s.pixelStepOpen = false) (hm : s.moves = []) :
    s.fetch = (s.coreTurn, []) := by
  unfold State.fetch; simp [h, hm]

theorem State.fetch_of_cons (s : State) (h : s.pixelStepOpen = false) {m : Move} {ms : List Move}
    (hm : s.moves = m :: ms) :
    s.fetch = (match m with
      | .bus header data => (.word (.bus header data), ms)
      | .ctrl data => (.word (.ctrl data), ms)
      | .core => (s.coreTurn, ms)
      | .event e => (.event e, ms)) := by
  unfold State.fetch
  simp only [h, hm]
  cases m <;> simp

theorem State.coreTurn_of_busy (s : State) (h : s.status = .busy) : s.coreTurn = .word (.uop s.uop) := if_pos h

theorem State.coreTurn_of_not_busy (s : State) (h : s.status ≠ .busy) : s.coreTurn = .wait := if_neg h

/-- What the step fetches: the selected micro-operation, only in BUSY; a host access or command or another event, only
between CORE steps; or nothing, only outside BUSY. -/
theorem State.fetch_cases (s : State) :
    (s.status = .busy ∧ s.fetch.1 = .word (.uop s.uop)) ∨
    (s.pixelStepOpen = false ∧ ∃ h d, s.fetch.1 = .word (.bus h d)) ∨
    (s.pixelStepOpen = false ∧ ∃ d, s.fetch.1 = .word (.ctrl d)) ∨
    (s.pixelStepOpen = false ∧ ∃ e, s.fetch.1 = .event e) ∨
    (s.status ≠ .busy ∧ s.fetch.1 = .wait) := by
  have turn : (s.status = .busy ∧ s.coreTurn = .word (.uop s.uop)) ∨ (s.status ≠ .busy ∧ s.coreTurn = .wait) := by
    by_cases h : s.status = .busy
    · exact .inl ⟨h, s.coreTurn_of_busy h⟩
    · exact .inr ⟨h, s.coreTurn_of_not_busy h⟩
  cases ho : s.pixelStepOpen with
  | true => exact .inl ⟨((s.pixelStepOpen_iff).mp ho).1, by rw [s.fetch_of_open ho]⟩
  | false =>
    cases hm : s.moves with
    | nil =>
      rw [s.fetch_of_empty ho hm]
      rcases turn with ⟨a, b⟩ | ⟨a, b⟩
      · exact .inl ⟨a, b⟩
      · exact .inr (.inr (.inr (.inr ⟨a, b⟩)))
    | cons m ms =>
      rw [s.fetch_of_cons ho hm]
      cases m with
      | bus h d => exact .inr (.inl ⟨rfl, h, d, rfl⟩)
      | ctrl d => exact .inr (.inr (.inl ⟨rfl, d, rfl⟩))
      | core =>
        rcases turn with ⟨a, b⟩ | ⟨a, b⟩
        · exact .inl ⟨a, b⟩
        · exact .inr (.inr (.inr (.inr ⟨a, b⟩)))
      | event e => exact .inr (.inr (.inr (.inl ⟨rfl, e, rfl⟩)))

theorem step_of_word {s : State} {w : InstrWord} (h : s.fetch.1 = .word w) :
    step s = retire w (exec (decode w) (s.setMoves s.fetch.2)) := by
  unfold step; rw [h]

theorem step_of_event {s : State} {e : HostEvent} (h : s.fetch.1 = .event e) :
    step s = (s.setMoves s.fetch.2).hostEvent e := by
  unfold step; rw [h]

theorem step_of_wait {s : State} (h : s.fetch.1 = .wait) : step s = .next (s.setMoves s.fetch.2) := by
  unfold step; rw [h]

theorem retire_eq_next {w : InstrWord} {o : Host.Outcome State Fault Refusal} {t : State} :
    retire w o = .next t ↔ ∃ u, o = .next u ∧ t = u.afterWord w := by
  cases o <;> simp [retire, eq_comm]

@[simp] theorem State.afterWord_bus (s : State) (h : BitVec 4) (d : Word) : s.afterWord (.bus h d) = s := rfl
@[simp] theorem State.afterWord_ctrl (s : State) (d : Word) : s.afterWord (.ctrl d) = s := rfl
@[simp] theorem State.afterWord_uop (s : State) (k : BitVec 4) : s.afterWord (.uop k) = s.setUop (s.nextUop k) := rfl

end Sys2Proof.Machine
end

