-- ==== Sys2Proof/Laws/PerInstr.lean ====
section
/-! SUPPORT. The family OwnRow, one lemma per operation: the word a well-formed operation is encoded in belongs to the
row of the opcode table that bears its mnemonic, and to no other row. -/

namespace Sys2Proof.Laws

/-- The rows of a CTRL word, by its two command bits. -/
theorem rowsOf_ctrl (d : Word) :
    rowsOf (.ctrl d) = if d.toNat % 2 = 1 then ["START"] else if d.toNat % 4 = 2 then ["CLEAR"] else ["NOP"] := by
  have h4 : d.toNat &&& 3 = d.toNat % 4 := Nat.and_two_pow_sub_one_eq_mod _ 2
  have h2 : d.toNat &&& 1 = d.toNat % 2 := Nat.and_two_pow_sub_one_eq_mod _ 1
  have cover : d.toNat % 4 = 0 ∨ d.toNat % 4 = 1 ∨ d.toNat % 4 = 2 ∨ d.toNat % 4 = 3 := by omega
  have parity : ∀ n, d.toNat % 4 = n → d.toNat % 2 = n % 2 := by omega
  rcases cover with h | h | h | h <;>
    simp [rowsOf, opcodeTable, OpcodeRow.matches, InstrWord.format, InstrWord.opcodeBits, h4, h2, h, parity _ h]

/-- The rows of a bus word do not depend on its data. -/
theorem rowsOf_bus (header : BitVec 4) (data : Word) :
    rowsOf (.bus header data) = if header.getLsbD 3 then ["WR"] else ["RD"] := by
  show rowsOf (.bus header 0) = _
  revert header
  decide

/-- What appending the two command bits does to the number of a CTRL word. -/
theorem toNat_append_command (r : BitVec 30) (c : BitVec 2) : (r ++ c).toNat = 4 * r.toNat + c.toNat := by
  rw [BitVec.toNat_append, Nat.shiftLeft_eq, Nat.mul_comm, ← Nat.two_pow_add_eq_or_of_lt c.isLt]

namespace OwnRow

/-- A well-formed operation's word is in its own row of the opcode table alone. -/
def Statement (i : Instr) : Prop := i.wellFormed = true → rowsOf (encode i) = [i.mnemonic]

theorem rd (offset : Nat) : Statement (.rd offset) := by
  intro h
  simp [Instr.wellFormed, offsetAligned, offsetInRange] at h
  have low : ∀ k : Fin 8, rowsOf (.bus (BitVec.ofNat 4 k.val) 0) = ["RD"] := by decide
  exact low ⟨offset / 4, by omega⟩

theorem wr (offset : Nat) (data : Word) : Statement (.wr offset data) := by
  intro h
  simp [Instr.wellFormed, offsetAligned, offsetInRange] at h
  have high : ∀ k : Fin 8, (BitVec.ofNat 4 (8 + k.val)).getLsbD 3 = true := by decide
  have e := high ⟨offset / 4, by omega⟩
  show rowsOf (.bus _ data) = ["WR"]
  rw [rowsOf_bus, if_pos e]

theorem nop (reserved : BitVec 30) : Statement (.nop reserved) := by
  intro _
  show rowsOf (.ctrl (reserved ++ 0#2)) = ["NOP"]
  rw [rowsOf_ctrl, toNat_append_command]
  rw [if_neg (by simp; omega), if_neg (by simp)]

theorem start (clearBit : Bool) (reserved : BitVec 30) : Statement (.start clearBit reserved) := by
  intro _
  show rowsOf (.ctrl (reserved ++ (BitVec.ofBool clearBit ++ 1#1))) = ["START"]
  rw [rowsOf_ctrl, toNat_append_command]
  rw [if_pos (by cases clearBit <;> simp <;> omega)]

theorem clear (reserved : BitVec 30) : Statement (.clear reserved) := by
  intro _
  show rowsOf (.ctrl (reserved ++ 2#2)) = ["CLEAR"]
  rw [rowsOf_ctrl, toNat_append_command]
  rw [if_neg (by simp; omega), if_pos (by simp)]

theorem xySplit : Statement .xySplit := fun _ => by decide
theorem lumaAddr : Statement .lumaAddr := fun _ => by decide
theorem lumaLd : Statement .lumaLd := fun _ => by decide
theorem chromaAddr : Statement .chromaAddr := fun _ => by decide
theorem chromaLd : Statement .chromaLd := fun _ => by decide
theorem chromaSplit : Statement .chromaSplit := fun _ => by decide
theorem center : Statement .center := fun _ => by decide
theorem macR : Statement .macR := fun _ => by decide
theorem macG : Statement .macG := fun _ => by decide
theorem macB : Statement .macB := fun _ => by decide
theorem trunc : Statement .trunc := fun _ => by decide
theorem clamp : Statement .clamp := fun _ => by decide
theorem pack : Statement .pack := fun _ => by decide
theorem pixSt : Statement .pixSt := fun _ => by decide
theorem advance : Statement .advance := fun _ => by decide
theorem finish : Statement .finish := fun _ => by decide

end OwnRow

end Sys2Proof.Laws
end

