-- ==== Sys2Proof/Machine/HostProgram.lean ====
section
/-! DEFINITION. The notation of host programs as moves (30_encoding.md R94): its four lines, each one host step, and the
expansions of its pseudo-operations. No step of the machine uses it. -/

namespace Sys2Proof.Machine

/-- A register's word index (R81). -/
def HostReg.index (r : HostReg) : BitVec 4 :=
  match r with
  | .ctrl => 0
  | .status => 1
  | .width => 2
  | .height => 3
  | .buflen => 4
  | .errCode => 5
  | .errActual => 6
  | .errExpected => 7

/-- One line of a host program. -/
inductive HostLine where
  /-- `WR <reg>, <value>` -/
  | wr (reg : HostReg) (value : Word)
  /-- `RD <reg>` -/
  | rd (reg : HostReg)
  /-- `FBW <addr>, <b0> <b1> ...` -/
  | fbw (addr : Nat) (bytes : List Byte)
  /-- `PGR <index>` -/
  | pgr (index : Nat)
  deriving DecidableEq, Repr

/-- The move a line is: BUS header `1 idx` and 32 data bits, BUS header `0 idx`, or no block operation. -/
def HostLine.move (l : HostLine) : Move :=
  match l with
  | .wr reg value => .bus (8 + reg.index) value
  | .rd reg => .bus reg.index 0
  | .fbw addr bytes => .event (.fbWrite addr bytes)
  | .pgr index => .event (.pgRead index)

/-- `NOP` -/
def nopLine : HostLine := .wr .ctrl 0
/-- `START` -/
def startLine : HostLine := .wr .ctrl 1
/-- `CLEAR` -/
def clearLine : HostLine := .wr .ctrl 2

/-- `POLL` is left when the value the last `RD STATUS` returned has STATE other than BUSY. -/
def State.pollEnds (s : State) : Bool :=
  match s.hostRead with
  | none => false
  | some v => decide (v.extractLsb' 0 2 ≠ 1)

/-- `POLL` of `n` reads. How many it takes is the host's loop, which `pollEnds` ends. -/
def pollLines (n : Nat) : List HostLine := List.replicate n (.rd .status)

/-- `CONVERT w, h, n`, with a `POLL` of `reads` reads. -/
def convertLines (w h n : Word) (reads : Nat) : List HostLine :=
  [.wr .width w, .wr .height h, .wr .buflen n, startLine] ++ pollLines reads

end Sys2Proof.Machine
end

