-- ==== Sys2Proof/Tests/Slice0.lean ====
section
/-! SUPPORT. Tests. Expected values come from the spec: 95_test_vectors.md where a section is named, else the rule named.
The last part gives, for each obligation with hypotheses, operands and a state that meet them. -/

namespace Sys2Proof.Tests

open Sys2Proof Sys2Proof.Machine

/-! ## WellFormed refuses, check by check (R21, U14) -/

theorem test_wellFormed_refuses_rd_of_an_unaligned_offset : (Instr.rd 0x02).wellFormed = false := by decide
theorem test_wellFormed_refuses_rd_past_the_last_register : (Instr.rd 0x20).wellFormed = false := by decide
theorem test_wellFormed_refuses_wr_of_an_unaligned_offset : (Instr.wr 0x1B 1).wellFormed = false := by decide
theorem test_wellFormed_refuses_wr_past_the_last_register : (Instr.wr 0x24 1).wellFormed = false := by decide
theorem test_wellFormed_checks_alignment_alone :
    offsetAligned 0x05 = false ∧ offsetInRange 0x05 = true ∧ offsetAligned 0x20 = true ∧ offsetInRange 0x20 = false := by
  decide
theorem test_wellFormed_accepts_the_eight_offsets :
    [0x00, 0x04, 0x08, 0x0C, 0x10, 0x14, 0x18, 0x1C].all (fun o => (Instr.rd o).wellFormed && (Instr.wr o 7).wellFormed) =
      true := by decide

/-! ## Decoding of words written out from the spec (R80, R81, R83, R90; 95_test_vectors.md 2.1 and program P1) -/

/-- Header bits `rw idx`, then 32 data bits: `0010` RD WIDTH, `1010` WR WIDTH with data 2, `1111` WR ERR_EXPECTED. -/
theorem test_decode_bus_words :
    decodeBits .bus 0b0010 = .ok (.rd 0x08) ∧ decodeBits .bus 0b0111 = .ok (.rd 0x1C) ∧
    decodeBits .bus 0b101010 = .ok (.wr 0x08 2) ∧
    decodeBits .bus 0xFFFFFFFFF = .ok (.wr 0x1C 0xFFFFFFFF) ∧
    decodeTableWord 40 0x2A = some (.wr 0x08 2) := by decide

/-- `d[1:0]` is 00 NOP, 01 and 11 START, 10 CLEAR; bits 31:2 are reserved. -/
theorem test_decode_ctrl_words :
    decodeTableWord 32 0x80000000 = some (.nop 0x20000000) ∧ decodeTableWord 32 0x4 = some (.nop 1) ∧
    decodeTableWord 32 0xFFFFFFFD = some (.start false 0x3FFFFFFF) ∧
    decodeTableWord 32 0xFFFFFFFF = some (.start true 0x3FFFFFFF) ∧
    decodeTableWord 32 0x2 = some (.clear 0) := by decide

theorem test_decode_uop_words_low :
    [0, 1, 2, 3, 4, 5, 6, 7].map (decodeTableWord 8) =
      [some .xySplit, some .lumaAddr, some .lumaLd, some .chromaAddr, some .chromaLd, some .chromaSplit, some .center,
       some .macR] := by decide
theorem test_decode_uop_words_high :
    [8, 9, 10, 11, 12, 13, 14, 15].map (decodeTableWord 8) =
      [some .macG, some .macB, some .trunc, some .clamp, some .pack, some .pixSt, some .advance, some .finish] := by decide

/-- Bits past a format's length are rejected by name (R80, R95). -/
theorem test_decode_rejects_bits_past_the_format :
    decodeBits .uop 16 = .error .wordTooWide ∧ decodeBits .ctrl (2 ^ 32) = .error .wordTooWide ∧
    decodeBits .bus (2 ^ 36) = .error .wordTooWide ∧ decodeTableWord 16 0 = none := by decide

/-- No two rows of one format share a word (R81, R83, R90). -/
theorem test_opcode_rows_do_not_overlap :
    opcodeTable.Pairwise (fun r q =>
      r.format ≠ q.format ∨ r.pattern &&& (r.mask &&& q.mask) ≠ q.pattern &&& (r.mask &&& q.mask)) := by decide

theorem test_opcode_table_has_the_twenty_one_rows : opcodeTable.length = 21 := by decide

/-- Program P1: `CONVERT 2, 4, 12` with one read is `0xA 2`, `0xB 4`, `0xC 12`, `0x8 1`, `0x1`. -/
theorem test_convert_expands_to_the_bus_words_of_P1 :
    (convertLines 2 4 12 1).map HostLine.move =
      [.bus 0xA 2, .bus 0xB 4, .bus 0xC 12, .bus 0x8 1, .bus 0x1 0] := by decide

/-- `POLL` goes on at the value 1 and ends at 2 and 3. -/
theorem test_poll_ends_outside_busy :
    [1, 2, 3].map (fun v => ({ State.reset with hostRead := some v } : State).pollEnds) = [false, true, true] := by decide

/-! ## A small state: the 4 by 8 frame of 95_test_vectors.md section 3, at pixel 22 -/

/-- The bytes of the frame that pixel 22, at (2, 5), reads. -/
def frame48 : State :=
  { State.reset with
    status := .busy, width := 4, height := 8, buflen := 48, p := 22, fb := [(22, 0xAE), (42, 0x80), (43, 0x80)] }

/-- The same with other datapath registers. -/
def frameWith (d : Datapath) : State := { frame48 with dp := d }

/-- A field of the datapath after an operation, none where it stopped. -/
def dpAfter {α : Type} (i : Instr) (s : State) (f : Datapath → α) : Option α := (nextOf (exec i s)).map (fun t => f t.dp)

/-- Something of the state after an operation, none where it stopped. -/
def after {α : Type} (i : Instr) (s : State) (f : State → α) : Option α := (nextOf (exec i s)).map f

/-! ## Host accesses and commands (95_test_vectors.md 2.1 to 2.3, programs P3 and P5) -/

theorem test_rd_status_of_each_state :
    [Status.idle, .busy, .done, .error].map (fun st => after (.rd 0x04) { State.reset with status := st } State.hostRead) =
      [some (some 0), some (some 1), some (some 2), some (some 3)] := by decide
theorem test_rd_ctrl_returns_zero : after (.rd 0x00) frame48 State.hostRead = some (some 0) := by decide
theorem test_wr_stores_an_illegal_width :
    after (.wr 0x08 0xFFFFFFFF) State.reset State.width = some 0xFFFFFFFF := by decide
theorem test_wr_width_is_dropped_in_busy : after (.wr 0x08 8) frame48 State.width = some 4 := by decide
theorem test_nop_changes_nothing : nextOf (exec (.nop 0x3FFFFFFF) frame48) = some frame48 := by decide +kernel

/-- BUFLEN 11 for a 2 by 4 frame: ERROR, code 2, actual 11, expected 12. -/
theorem test_start_reports_a_size_mismatch :
    after (.start false 0) { State.reset with width := 2, height := 4, buflen := 11 }
      (fun t => (t.status, t.errCode, t.errActual, t.errExpected)) = some (.error, .sizeMismatch, 11, 12) := by decide

/-- Width 3, height 4, BUFLEN 17: both checks fail and the dimension check is the one reported (R195). -/
theorem test_start_checks_dimensions_first :
    after (.start false 0) { State.reset with width := 3, height := 4, buflen := 17 }
      (fun t => (t.status, t.errCode, t.errActual, t.errExpected)) = some (.error, .invalidDimensions, 0, 0) := by decide

theorem test_dims_ok_table :
    [(2, 4), (4, 8), (6, 4), (640, 480), (1920, 1080), (32766, 32764)].all (fun d => dimsOk 32767 d.1 d.2) = true ∧
    [(0, 4), (2, 0), (3, 4), (2, 6), (2, 5), (2, 7), (1920, 1082), (32768, 4), (2, 32768), (32767, 4)].any
      (fun d => dimsOk 32767 d.1 d.2) = false := by decide

/-- P3: CLEAR in ERROR zeroes the error registers. -/
theorem test_clear_leaves_error :
    after (.clear 0) { State.reset with status := .error, errCode := .sizeMismatch, errActual := 11, errExpected := 12 }
      (fun t => (t.status, t.errCode, t.errActual, t.errExpected)) = some (.idle, .noError, 0, 0) := by decide
/-- P5: CLEAR in BUSY is dropped. -/
theorem test_clear_is_dropped_in_busy : after (.clear 0) frame48 State.status = some .busy := by decide

/-! ## Micro-operations (95_test_vectors.md 2.4 to 2.6; the examples of the rules) -/

theorem test_xySplit : dpAfter .xySplit frame48 (fun d => (d.x, d.y)) = some (2, 5) := by decide
theorem test_lumaAddr : dpAfter .lumaAddr (frameWith { Datapath.reset with x := 2, y := 5 }) Datapath.la = some 22 := by
  decide
theorem test_lumaLd : dpAfter .lumaLd (frameWith { Datapath.reset with la := 22 }) Datapath.yv = some 174 := by decide
theorem test_chromaAddr :
    dpAfter .chromaAddr (frameWith { Datapath.reset with x := 2, y := 5 }) (fun d => (d.ci, d.ca)) = some (5, 42) := by decide
/-- The last pixel of the largest frame: `ci` = 268369922, `ca` = 1610285068. -/
theorem test_chromaAddr_of_the_largest_frame :
    dpAfter .chromaAddr
      { State.reset with status := .busy, width := 32766, height := 32764, dp := { Datapath.reset with x := 32765, y := 32763 } }
      (fun d => (d.ci, d.ca)) = some (268369922, 1610285068) := by decide
/-- The byte-order check: 0x12 at the lower address is U. -/
theorem test_chromaLd_is_little_endian :
    dpAfter .chromaLd { frameWith { Datapath.reset with ca := 42 } with fb := [(42, 0x12), (43, 0x34)] } Datapath.cw =
      some 0x3412 := by decide
theorem test_chromaSplit :
    dpAfter .chromaSplit (frameWith { Datapath.reset with cw := 0xF05A }) (fun d => (d.ub, d.vb)) = some (90, 240) := by decide
theorem test_center :
    dpAfter .center (frameWith { Datapath.reset with ub := 90, vb := 240 }) (fun d => (d.u.toInt, d.v.toInt)) =
      some (-38, 112) := by decide
theorem test_center_of_the_bounds :
    dpAfter .center (frameWith { Datapath.reset with ub := 0, vb := 255 }) (fun d => (d.u, d.v)) = some (0x80, 0x7F) := by
  decide

/-- `Yv` = 81, `Ub` = 0x5A, `Vb` = 0xF0. -/
def sample81 : State := frameWith { Datapath.reset with yv := 81, u := 0xDA, v := 0x70 }

theorem test_macR : dpAfter .macR sample81 Datapath.rv = some (81 + 78512 / 615) := by decide +kernel
theorem test_macG :
    dpAfter .macG sample81 Datapath.gv = some ((81 * 39349545 + 38 * 15529365 - 112 * 22846291) / 39349545) := by
  decide +kernel
theorem test_macB : dpAfter .macB sample81 Datapath.bv = some (81 - 16834 / 218) := by decide +kernel

/-- Toward zero on both sides: 208.66 to 208, 30.97 to 30, and −145.9 to −145. -/
theorem test_trunc :
    dpAfter .trunc (frameWith { Datapath.reset with rv := 81 + 78512 / 615, gv := 3097 / 100, bv := -1459 / 10 })
      (fun d => (d.ri.toInt, d.gi.toInt, d.bi.toInt)) = some (208, 30, -145) := by decide +kernel
theorem test_clamp_saturates :
    dpAfter .clamp (frameWith { Datapath.reset with ri := -145, gi := 124, bi := 513 }) (fun d => (d.r8, d.g8, d.b8)) =
      some (0, 124, 255) := by decide
theorem test_clamp_keeps_the_bounds : [-1, 0, 255, 256].map clampChannel = [0, 0, 255, 255] := by decide
theorem test_pack :
    dpAfter .pack (frameWith { Datapath.reset with r8 := 208, g8 := 30, b8 := 3 }) Datapath.pw = some 0xFF031ED0 := by decide
theorem test_pixSt :
    after .pixSt (frameWith { Datapath.reset with pw := 0xFFAEAEAE }) State.pg = some [(22, 0xFFAEAEAE)] := by decide
theorem test_advance : after .advance frame48 State.p = some 23 := by decide
theorem test_finish : after .finish { frame48 with p := 32 } State.status = some .done := by decide

/-- The all-zero frame is (0, 124, 0) (90_conflicts.md C1), and the rows of section 2.6. -/
theorem test_colour_rows :
    colourOf 0 0 0 = ⟨0, 124, 0⟩ ∧ colourOf 145 0x36 0x22 = ⟨37, 228, 0⟩ ∧ colourOf 41 0xF0 0x6E = ⟨20, 7, 255⟩ ∧
    colourOf 255 0xFF 0xFF = ⟨255, 131, 255⟩ ∧ colourOf 109 0x36 0x22 = ⟨1, 192, 0⟩ := by decide +kernel

/-- The input of R157 whose exact value lies just below an integer: G8 is 128. -/
theorem test_colour_near_an_integer : (colourOf 219 231 213).g = 128 := by decide +kernel

/-! ## One step of the machine -/

/-- After reset, with no move queued, the block waits (R35). -/
theorem test_step_waits_after_reset : nextOf (step State.reset) = some State.reset := by decide +kernel

/-- A host access queued while a pixel step is under way waits for its end (R59, R177). -/
theorem test_step_does_not_interrupt_a_pixel_step :
    (nextOf (step { frame48 with uop := 1, moves := [.bus 0x8 2] })).map (fun t => (t.uop, t.moves)) =
      some (2, [.bus 0x8 2]) := by decide

/-- At a boundary the host access is done first: RD STATUS in BUSY reads 1. -/
theorem test_step_runs_a_host_access_at_a_boundary :
    (nextOf (step { frame48 with moves := [.bus 0x1 0, .core] })).map (fun t => (t.hostRead, t.uop, t.moves)) =
      some (some 1, 0, [.core]) := by decide

theorem test_step_takes_cores_turn :
    (nextOf (step { frame48 with moves := [.core, .bus 0x1 0] })).map (fun t => (t.dp.x, t.uop, t.moves)) =
      some (2, 1, [.bus 0x1 0]) := by decide

/-- After ADVANCE past the last pixel the finish step is selected (R179). -/
theorem test_step_selects_the_finish_step :
    (nextOf (step { frame48 with uop := 14, p := 31 })).map (fun t => (t.p, t.uop)) = some (32, 15) := by decide

/-- Every row's word, placed as the host places it, runs as the first operation after reset. -/
theorem test_placed_control_and_bus_words_run :
    [(32, 0), (32, 1), (32, 2), (40, 0x1), (40, 0x2A)].all (fun c =>
      (nextOf (step (State.reset.withFetchWord c.1 c.2))).isSome) = true := by decide
theorem test_placed_micro_operations_run :
    (List.range 16).all (fun k => (nextOf (step (State.reset.withFetchWord 8 k))).isSome) = true := by decide

/-- FBW of program P2 in DONE; then in BUSY, a byte no pixel reads (R53), which is no race and raises nothing (U6). -/
theorem test_host_write_to_the_frame_buffer :
    (nextOf (step { State.reset with moves := [.event (.fbWrite 3 [7, 8])] })).map State.fb = some [(3, 7), (4, 8)] ∧
    (nextOf (step { frame48 with moves := [.event (.fbWrite 36 [7])] })).map (fun t => (Memory.read t.fb 36, t.status, t.p)) =
      some (some 7, .busy, 22) := by decide

/-- The pixels that depend on a luma byte, on a chroma byte (the 2 by 4 block of R139) and on an unread one (R53). -/
theorem test_pixels_that_depend_on_a_byte :
    (List.range 32).filter (frame48.pixelDependsOn 3 1) = [3] ∧
    (List.range 32).filter (frame48.pixelDependsOn 42 1) = [18, 19, 22, 23, 26, 27, 30, 31] ∧
    (List.range 32).filter (frame48.pixelDependsOn 36 1) = [] := by decide

theorem test_reset_memory_is_canonical :
    Memory.wf State.reset.fb = true ∧ Memory.wf State.reset.pg = true := by decide

/-- Writing a key twice leaves one entry, and keys stay in order. -/
theorem test_memory_write_keeps_order :
    Memory.write (Memory.write (Memory.write [] 5 (1 : Byte)) 2 2) 5 3 = [(2, 2), (5, 3)] := by decide

/-! ## Races and an abandoned conversion: the two words the spec admits (U6, U7, U8) -/

/-- The white 2 by 4 frame (S2) when its eighth pixel is stored and the finish step is left. -/
def whiteDone : State :=
  { State.reset with
    status := .busy, width := 2, height := 4, buflen := 12, p := 8, uop := 15,
    fb := (List.range 12).map (fun a => (a, if a < 8 then 0xFF else 0x80)),
    pg := (List.range 8).map (fun i => (i, 0xFFFFFFFF)) }

/-- Luma byte 3 made 0 in BUSY: pixel 3 is white or black, and pixel 2 stays white (R64). -/
theorem test_raced_sample_gives_the_old_or_the_new_pixel :
    ((whiteDone.raceOnFrame 3 [0]).gridEntry 3 = some 0xFFFFFFFF ∨
      (whiteDone.raceOnFrame 3 [0]).gridEntry 3 = some 0xFF000000) ∧
    (whiteDone.raceOnFrame 3 [0]).gridEntry 2 = some 0xFFFFFFFF := by
  have old : whiteDone.pixelWord 3 = 0xFFFFFFFF := by decide +kernel
  have new : (whiteDone.writeFrame 3 [0]).pixelWord 3 = 0xFF000000 := by decide +kernel
  have h3 : (whiteDone.raceOnFrame 3 [0]).gridEntry 3 =
      if whiteDone.choice 3 then some (whiteDone.pixelWord 3) else some ((whiteDone.writeFrame 3 [0]).pixelWord 3) :=
    whiteDone.gridEntry_raceOnFrame 3 [0] 3
  refine ⟨?_, (whiteDone.gridEntry_raceOnFrame 3 [0] 2).trans (by decide)⟩
  rw [h3, old, new]; split <;> simp

/-- A word written in BUSY to entry 2, whose pixel is stored, stays or gives way to the pixel (R65). -/
theorem test_raced_entry_holds_the_hosts_word_or_the_pixel :
    (whiteDone.raceOnGrid 2 5).gridEntry 2 = some 5 ∨ (whiteDone.raceOnGrid 2 5).gridEntry 2 = some 0xFFFFFFFF := by
  have pixel : whiteDone.pixelWord 2 = 0xFFFFFFFF := by decide +kernel
  have h2 : (whiteDone.raceOnGrid 2 5).gridEntry 2 =
      some (if whiteDone.choice 2 then 5 else whiteDone.pixelWord 2) := whiteDone.gridEntry_raceOnGrid 2 5 2
  rw [h2, pixel]; split <;> simp

/-- Reset in BUSY: IDLE, FB kept, an entry past the frame kept, and entry 3, which held 7 before the conversion, holds that
or the pixel (R222). -/
theorem test_reset_in_busy :
    (whiteDone.hostReset.status, whiteDone.hostReset.width, whiteDone.hostReset.fb.length) = (.idle, 0, 12) ∧
    ({ whiteDone with pg := [(3, 0xFFFFFFFF), (8, 6)] } : State).hostReset.gridEntry 8 = some 6 ∧
    (({ whiteDone with pgBefore := [(3, 7)] } : State).hostReset.gridEntry 3 = some 7 ∨
      ({ whiteDone with pgBefore := [(3, 7)] } : State).hostReset.gridEntry 3 = some 0xFFFFFFFF) := by
  have pixel : ({ whiteDone with pgBefore := [(3, 7)] } : State).pixelWord 3 = 0xFFFFFFFF := by decide +kernel
  have h3 : ({ whiteDone with pgBefore := [(3, 7)] } : State).hostReset.gridEntry 3 =
      if whiteDone.choice 3 then some (({ whiteDone with pgBefore := [(3, 7)] } : State).pixelWord 3) else some 7 :=
    State.gridEntry_hostReset _ 3
  refine ⟨by decide, (State.gridEntry_hostReset _ 8).trans (by decide), ?_⟩
  rw [h3, pixel]; split <;> simp

/-- PIX_ST leaves an entry that a host write has decided (R65). -/
theorem test_pixSt_leaves_a_decided_entry :
    after .pixSt { frameWith { Datapath.reset with pw := 0xFFAEAEAE } with settled := [22], pg := [(22, 5)] } State.pg =
      some [(22, 5)] := by decide

/-! ## Witnesses: operands and states that meet the hypotheses of the obligations, clause by clause -/

/-- The largest legal frame at its last pixel, in BUSY. -/
def largest : State :=
  { State.reset with
    status := .busy, width := 32766, height := 32764, buflen := 1610317836, p := 1073545223,
    dp := { Datapath.reset with x := 32765, y := 32763, la := 1610317835, ca := 1610317834 } }

/-- The same frame right after START, with nothing stored. -/
def whiteStart : State := { whiteDone with p := 0, uop := 0, pg := [] }

theorem inv_whiteDone : Inv whiteDone := by
  refine ⟨?_, ?_, fun _ => ?_, fun _ h => absurd rfl h⟩
  · unfold MemoriesCanonical; decide
  · unfold ErrorsAgree; decide
  · decide

theorem inv_whiteStart : Inv whiteStart := by
  refine ⟨?_, ?_, fun _ => ?_, fun _ _ => ?_⟩
  · unfold MemoriesCanonical; decide
  · unfold ErrorsAgree; decide
  · decide
  · decide

theorem conversionInv_whiteDone : ConversionInv whiteDone := by
  refine ⟨inv_whiteDone, fun _ h => absurd rfl h, fun _ => ?_, fun _ => ?_⟩
  · decide +kernel
  · intro i h1 h2
    exact absurd (show i < 8 from h2) (Nat.lt_asymm (show 8 < i from h1))

/-- The same frame where a host write in BUSY has left 5 in entry 3, and the pixel's step stands before it. -/
def whiteRaced : State := { whiteDone with pg := Memory.write whiteDone.pg 3 5, settled := [3] }

theorem inv_whiteRaced : Inv whiteRaced := by
  refine ⟨?_, ?_, fun _ => ?_, fun _ h => absurd rfl h⟩
  · unfold MemoriesCanonical; decide
  · unfold ErrorsAgree; decide
  · decide

theorem conversionInv_whiteRaced : ConversionInv whiteRaced := by
  refine ⟨inv_whiteRaced, fun _ h => absurd rfl h, fun _ => ?_, fun _ => ?_⟩
  · decide +kernel
  · intro i h1 h2
    exact absurd (show i < 8 from h2) (Nat.lt_asymm (show 8 < i from h1))

theorem witness_DecodeOfEncodeIsTheInstruction :
    (Instr.rd 0x00).wellFormed = true ∧ (Instr.wr 0x1C 5).wellFormed = true ∧ (Instr.start true 3).wellFormed = true ∧
      Instr.finish.wellFormed = true := by decide

theorem witness_ControlWordDecodesToOneOfThreeCommands :
    (0xFFFFFFFF : Word).toNat % 2 = 1 ∧ (0xFFFFFFFE : Word).toNat % 4 = 2 ∧ (0xFFFFFFFC : Word).toNat % 4 = 0 := by decide

theorem witness_ReservedControlBitsAreIgnored : (0xFFFFFFFD : Word).toNat % 4 = (0x00000001 : Word).toNat % 4 := by decide

theorem witness_AccessIsRefusedExactlyAtOtherOffsets :
    ¬(0x20 % 4 = 0 ∧ 0x20 ≤ 0x1C) ∧ ¬(0x1B % 4 = 0 ∧ 0x1B ≤ 0x1C) ∧ (0x1C % 4 = 0 ∧ 0x1C ≤ 0x1C) ∧
      (0 % 4 = 0 ∧ 0 ≤ 0x1C) := by decide

theorem witness_ConfigurationIsConstantWhileBusy :
    frame48.status = .busy ∧ frame48.fetch.1 ≠ .event .reset ∧ (nextOf (step frame48)).isSome = true ∧
      (nextOf (step { frame48 with moves := [.bus 0xA 2] })).isSome = true := by decide

theorem witness_NopChangesNothing : (0xFFFFFFFC : Word).toNat % 4 = 0 := by decide

theorem witness_StartChecksAndBegins_in_busy : (1 : Word).toNat % 2 = 1 ∧ frame48.status = .busy := by decide

/-- An illegal dimension one past the bound; then a legal frame with a wrong and with the right BUFLEN, the largest. -/
theorem witness_StartChecksAndBegins_outside_busy :
    State.reset.status ≠ .busy ∧
    ¬((1 ≤ 32768 ∧ 32768 ≤ 32767) ∧ (1 ≤ 4 ∧ 4 ≤ 32767) ∧ 32768 % 2 = 0 ∧ 4 % 4 = 0) ∧
    ((1 ≤ 32766 ∧ 32766 ≤ 32767) ∧ (1 ≤ 32764 ∧ 32764 ≤ 32767) ∧ 32766 % 2 = 0 ∧ 32764 % 4 = 0) ∧
    (1610317835 : Word).toNat ≠ (32766 : Word).toNat * (32764 : Word).toNat * 3 / 2 ∧
    (1610317836 : Word).toNat = (32766 : Word).toNat * (32764 : Word).toNat * 3 / 2 := by decide

theorem witness_ClearLeavesDoneAndError :
    (2 : Word).toNat % 4 = 2 ∧ ({ State.reset with status := .error } : State).status = .error ∧
      ({ State.reset with status := .done } : State).status = .done ∧ State.reset.status = .idle ∧
      frame48.status = .busy := by decide

theorem witness_StartTouchesNeitherMemory :
    (nextOf (exec (.start false 0) { whiteDone with status := .idle })).map State.status = some .busy ∧
      (nextOf (exec (.start true 7) State.reset)).map State.status = some .error := by decide

/-- Both alternatives of the conclusion: a START that fails, and an error that was there before a read. -/
theorem witness_ErrorsAreRaisedByStartAlone :
    (nextOf (exec (.wr 0 1) State.reset)).map State.status = some .error ∧
      (nextOf (exec (.rd 4) { State.reset with status := .error, errCode := .sizeMismatch })).map State.status =
        some .error := by decide

theorem witness_XySplitDividesTheCounter :
    largest.status = .busy ∧ largest.p.toNat < largest.width.toNat * largest.height.toNat ∧
      largest.width.toNat ≤ 32767 ∧ largest.height.toNat ≤ 32767 := by decide

theorem witness_LumaAddressIsRowMajor :
    largest.status = .busy ∧ largest.p.toNat < largest.width.toNat * largest.height.toNat ∧
      largest.width.toNat ≤ 32767 ∧ largest.height.toNat ≤ 32767 ∧
      largest.dp.x.toNat < largest.width.toNat ∧ largest.dp.y.toNat < largest.height.toNat ∧
      largest.dp.x.toNat = largest.p.toNat % largest.width.toNat ∧
      largest.dp.y.toNat = largest.p.toNat / largest.width.toNat := by decide

/-- At the last address of the frame, where a byte has been written. -/
theorem witness_LumaLoadReadsOneByte :
    largest.status = .busy ∧ largest.p.toNat < largest.width.toNat * largest.height.toNat ∧
      largest.dp.la.toNat < largest.buflen.toNat ∧ largest.dp.la.toNat + 1 = largest.buflen.toNat ∧
      Memory.read ({ largest with fb := [(1610317835, 9)] } : State).fb largest.dp.la.toNat = some 9 := by decide

theorem witness_ChromaAddressServesTwoByFourBlocks :
    largest.status = .busy ∧ largest.p.toNat < largest.width.toNat * largest.height.toNat ∧
      largest.width.toNat ≤ 32767 ∧ largest.height.toNat ≤ 32767 ∧ largest.width.toNat % 2 = 0 ∧
      largest.height.toNat % 4 = 0 ∧ largest.dp.x.toNat < largest.width.toNat ∧
      largest.dp.y.toNat < largest.height.toNat := by decide

theorem witness_ChromaLoadReadsALittleEndianWord :
    largest.status = .busy ∧ largest.p.toNat < largest.width.toNat * largest.height.toNat ∧
      largest.dp.ca.toNat + 1 < largest.buflen.toNat ∧ largest.dp.ca.toNat + 2 = largest.buflen.toNat ∧
      Memory.read [(1610317834, (0x12 : Byte)), (1610317835, 0x34)] largest.dp.ca.toNat = some 0x12 ∧
      Memory.read [(1610317834, (0x12 : Byte)), (1610317835, 0x34)] (largest.dp.ca.toNat + 1) = some 0x34 := by decide

theorem witness_ChromaSplitTakesLowByteAsU :
    frame48.status = .busy ∧ frame48.p.toNat < frame48.width.toNat * frame48.height.toNat := by decide

theorem witness_CenterSubtracts128 :
    sample81.status = .busy ∧ sample81.p.toNat < sample81.width.toNat * sample81.height.toNat := by decide

theorem witness_MacRIsExact :
    sample81.status = .busy ∧ sample81.p.toNat < sample81.width.toNat * sample81.height.toNat ∧
      sample81.dp.v.toInt ≠ 0 := by decide

/-- The nearest miss of R152 is met: at `Yv` = 219, `U` = 103, `V` = 85 the value is 280/39349545 below 129. -/
theorem witness_MacGIsExact :
    (sample81.status = .busy ∧ sample81.p.toNat < sample81.width.toNat * sample81.height.toNat ∧
      ¬(sample81.dp.u.toInt = 0 ∧ sample81.dp.v.toInt = 0)) ∧
    |channelG 219 103 85 - (129 : Int)| = (280 / 39349545 : Rat) := by
  refine ⟨by decide, ?_⟩
  have e : channelG 219 103 85 - (129 : Int) = -(280 / 39349545 : Rat) := by decide +kernel
  rw [e, abs_neg, abs_of_pos (by norm_num)]

theorem witness_MacBIsExact :
    sample81.status = .busy ∧ sample81.p.toNat < sample81.width.toNat * sample81.height.toNat ∧
      sample81.dp.u.toInt ≠ 0 := by decide

/-- A positive lane, a negative lane and a lane at zero, the least and the greatest value of the blue channel. -/
theorem witness_TruncDropsTheFractionTowardZero :
    frame48.status = .busy ∧ frame48.p.toNat < frame48.width.toNat * frame48.height.toNat ∧
      (-1025 < channelB 0 0x80 ∧ channelB 0 0x80 < 1024 ∧ channelB 0 0x80 ≤ 0) ∧
      (-1025 < channelB 255 0x7F ∧ channelB 255 0x7F < 1024 ∧ 0 ≤ channelB 255 0x7F) ∧
      (-1025 < (0 : Rat) ∧ (0 : Rat) < 1024) := by decide +kernel

theorem witness_ClampSaturates :
    frame48.status = .busy ∧ frame48.p.toNat < frame48.width.toNat * frame48.height.toNat := by decide

theorem witness_PackPlacesTheChannels :
    sample81.status = .busy ∧ sample81.p.toNat < sample81.width.toNat * sample81.height.toNat := by decide

theorem witness_PixelStoreWritesEntryP :
    largest.status = .busy ∧ largest.p.toNat < largest.width.toNat * largest.height.toNat ∧
      largest.p.toNat < 2 ^ 30 ∧ Memory.wf largest.pg = true ∧ (5 : Nat) ≠ largest.p.toNat ∧
      largest.p.toNat ∉ largest.settled ∧
      ({ largest with settled := [1073545223] } : State).p.toNat ∈ ({ largest with settled := [1073545223] } : State).settled := by
  decide

theorem witness_AdvanceIncrementsTheCounter :
    largest.status = .busy ∧ largest.p.toNat < largest.width.toNat * largest.height.toNat ∧
      largest.width.toNat ≤ 32767 ∧ largest.height.toNat ≤ 32767 := by decide

theorem witness_FinishReportsDone :
    whiteDone.status = .busy ∧ whiteDone.p.toNat = whiteDone.width.toNat * whiteDone.height.toNat ∧
      (nextOf (exec .finish whiteDone)).isSome = true := by decide

/-- Outside BUSY, past the last pixel, before it, and one past the buffer for each load. -/
theorem witness_MicroOperationsStopOutsideTheirStep :
    (14 : BitVec 4).toNat ≤ 14 ∧
    ¬(State.reset.status = .busy ∧ State.reset.p.toNat < State.reset.width.toNat * State.reset.height.toNat) ∧
    ¬(whiteDone.status = .busy ∧ whiteDone.p.toNat < whiteDone.width.toNat * whiteDone.height.toNat) ∧
    ¬(frame48.status = .busy ∧ frame48.p.toNat = frame48.width.toNat * frame48.height.toNat) ∧
    (frame48.status = .busy ∧ frame48.p.toNat < frame48.width.toNat * frame48.height.toNat ∧
      frame48.buflen.toNat ≤ (48 : Word).toNat ∧ frame48.buflen.toNat ≤ (47 : Word).toNat + 1) := by decide

theorem witness_StepRunsTheHostAccess :
    ¬(frame48.status = .busy ∧ frame48.uop ≠ 0 ∧ frame48.uop ≠ 15) ∧
      ({ frame48 with moves := [.bus 0x1 0, .core] } : State).moves = .bus 0x1 0 :: [.core] ∧
      ({ frame48 with moves := [.ctrl 2] } : State).moves = .ctrl 2 :: [] := by decide

/-- Within a pixel step; at a boundary with an empty queue and with CORE's turn first; a load that faults; and waiting. -/
theorem witness_StepRunsTheSelectedMicroOperationOrWaits :
    (frame48.status = .busy ∧ (5 : BitVec 4) ≠ 0 ∧ (5 : BitVec 4) ≠ 15 ∧
      (nextOf (exec (decode (.uop 5)) { frame48 with uop := 5 })).isSome = true) ∧
    (frame48.uop = 0 ∧ CoreTurnNext frame48 [] ∧ (nextOf (exec (decode (.uop 0)) frame48)).isSome = true) ∧
    (whiteDone.uop = 15 ∧ CoreTurnNext { whiteDone with moves := [.core, .ctrl 0] } [.ctrl 0]) ∧
    nextOf (exec (decode (.uop 2)) { frame48 with uop := 2, dp := { Datapath.reset with la := 48 } }) = none ∧
    (State.reset.status ≠ .busy ∧ CoreTurnNext State.reset []) :=
  ⟨by decide, ⟨by decide, .inl ⟨rfl, rfl⟩, by decide⟩, ⟨by decide, .inr rfl⟩, by decide, ⟨by decide, .inl ⟨rfl, rfl⟩⟩⟩

theorem witness_FrameBufferReadsAreLittleEndian :
    (47 : Nat) < frame48.buflen.toNat ∧ 46 + 1 < frame48.buflen.toNat ∧ Memory.read frame48.fb 22 = some 0xAE := by decide

theorem witness_PixelBytesAreRedGreenBlueAlpha : (19 < 4 * 5 ∨ 4 * 5 + 4 ≤ 19) ∧ (24 < 4 * 5 ∨ 4 * 5 + 4 ≤ 24) := by decide

/-- Outside BUSY, the last byte of the address space; in BUSY, a byte of luma, with a pixel that depends on it and pixels
that do not, one of them decided already. -/
theorem witness_HostWriteFillsTheFrameBuffer :
    (¬(State.reset.status = .busy ∧ State.reset.uop ≠ 0 ∧ State.reset.uop ≠ 15) ∧ State.reset.status ≠ .busy ∧
      ({ State.reset with moves := [.event (.fbWrite 0xFFFFFFFF [7])] } : State).moves =
        .event (.fbWrite 0xFFFFFFFF [7]) :: [] ∧
      0xFFFFFFFF + [(7 : Byte)].length ≤ 2 ^ 32 ∧ 0 < [(7 : Byte)].length ∧ Memory.wf State.reset.fb = true) ∧
    (¬(whiteRaced.status = .busy ∧ whiteRaced.uop ≠ 0 ∧ whiteRaced.uop ≠ 15) ∧ whiteRaced.status = .busy ∧
      ({ whiteRaced with moves := [.event (.fbWrite 7 [0])] } : State).moves = .event (.fbWrite 7 [0]) :: [] ∧
      7 < whiteRaced.width.toNat * whiteRaced.height.toNat ∧ 7 ∉ whiteRaced.settled ∧ 3 ∈ whiteRaced.settled ∧
      (7 ∈ whiteRaced.pixelReads 7 ∧ 7 ≤ 7 ∧ 7 < 7 + [(0 : Byte)].length) ∧
      (∀ a, a ∈ whiteRaced.pixelReads 6 → a < 7 ∨ 7 + [(0 : Byte)].length ≤ a) ∧
      whiteRaced.width.toNat * whiteRaced.height.toNat ≤ 8) := by decide

theorem witness_HostReadOfTheGrid :
    ¬(State.reset.status = .busy ∧ State.reset.uop ≠ 0 ∧ State.reset.uop ≠ 15) ∧ 0x3FFFFFFF < 2 ^ 30 ∧
      ({ State.reset with pg := [(0x3FFFFFFF, 5)], moves := [.event (.pgRead 0x3FFFFFFF)] } : State).moves =
        .event (.pgRead 0x3FFFFFFF) :: [] ∧
      State.reset.status ≠ .busy ∧
      ({ State.reset with pg := [(0x3FFFFFFF, 5)] } : State).gridEntry 0x3FFFFFFF = some 5 := by decide

/-- Each clause at a boundary of its range: the last address that exists and the first that does not, and the last entry the
conversion fills and the first it does not. -/
theorem witness_HostEventsStopOnMissingAddressesOnly :
    frame48.status = .busy ∧ State.reset.status ≠ .busy ∧ 2 ^ 32 < 2 ^ 32 - 1 + [(1 : Byte), 2].length ∧
      2 ^ 32 - 1 + [(1 : Byte)].length ≤ 2 ^ 32 ∧ 2 ^ 32 - 1 < 2 ^ 32 ∧ 2 ^ 32 ≤ 2 ^ 32 ∧
      Memory.read frame48.fb 22 = some 0xAE ∧ 2 ^ 30 - 1 < 2 ^ 30 ∧
      (31 < 2 ^ 30 ∧ frame48.status = .busy ∧ 31 < frame48.width.toNat * frame48.height.toNat) ∧
      (32 < 2 ^ 30 ∧ ¬(frame48.status = .busy ∧ 32 < frame48.width.toNat * frame48.height.toNat)) ∧
      3 ∈ whiteRaced.settled ∧ 2 ∉ whiteRaced.settled ∧ 2 ^ 30 ≤ 2 ^ 30 := by decide

theorem witness_ResetKeepsTheMemories :
    ¬(whiteRaced.status = .busy ∧ whiteRaced.uop ≠ 0 ∧ whiteRaced.uop ≠ 15) ∧
      ({ whiteRaced with moves := [.event .reset] } : State).moves = .event .reset :: [] ∧ whiteRaced.status = .busy ∧
      whiteRaced.width.toNat * whiteRaced.height.toNat ≤ 8 ∧ 7 < whiteRaced.width.toNat * whiteRaced.height.toNat ∧
      3 ∈ whiteRaced.settled ∧ 7 ∉ whiteRaced.settled ∧ State.reset.status ≠ .busy := by decide

theorem witness_ResetStateIsIdleWithZeroRegisters :
    ({ State.reset with status := .done, pg := [(0, 1)] } : State).status ≠ .busy := by decide

theorem witness_StepKeepsTheInvariant : Inv whiteStart ∧ (nextOf (step whiteStart)).isSome = true :=
  ⟨inv_whiteStart, by decide⟩

theorem witness_StepKeepsTheConversionInvariant :
    (ConversionInv whiteDone ∧ (nextOf (step whiteDone)).isSome = true) ∧
      ConversionInv whiteRaced ∧ (nextOf (step whiteRaced)).isSome = true :=
  ⟨⟨conversionInv_whiteDone, by decide⟩, conversionInv_whiteRaced, by decide⟩

/-- With no entry decided, and with entry 3 decided. -/
theorem witness_DoneMeansTheGridIsComplete :
    (ConversionInv whiteDone ∧ (nextOf (step whiteDone)).map State.status = some .done ∧ whiteDone.status ≠ .done ∧
      whiteDone.settled = []) ∧
    (ConversionInv whiteRaced ∧ (nextOf (step whiteRaced)).map State.status = some .done ∧ whiteRaced.status ≠ .done ∧
      whiteRaced.status = .busy ∧ whiteRaced.fetch.1 ≠ .event .reset ∧ (∀ v, whiteRaced.fetch.1 ≠ .event (.pgWrite 3 v)) ∧
      3 < whiteRaced.width.toNat * whiteRaced.height.toNat ∧ 3 ∈ whiteRaced.settled ∧ 7 ∉ whiteRaced.settled) :=
  ⟨⟨conversionInv_whiteDone, by decide, by decide, rfl⟩,
    ⟨conversionInv_whiteRaced, by decide, by decide, rfl, by decide, (fun v h => by cases h), by decide, by decide, by decide⟩⟩

/-- A micro-operation, and a host write to the last byte of FB. -/
theorem witness_NothingStopsButAMissingAddress :
    (Inv whiteStart ∧ ∀ e, whiteStart.fetch.1 = .event e → ¬e.missesMemory) ∧
    (Inv { whiteDone with moves := [.event (.fbWrite 0xFFFFFFFF [7])] } ∧
      ∀ e, ({ whiteDone with moves := [.event (.fbWrite 0xFFFFFFFF [7])] } : State).fetch.1 = .event e →
        ¬e.missesMemory) := by
  refine ⟨⟨inv_whiteStart, fun e h => by cases h⟩, inv_whiteDone, fun e h => ?_⟩
  cases h; exact Nat.not_lt.mpr (by decide)

theorem witness_AddressesStayInsideTheBuffer :
    (dimsOk 32767 32766 32764 = true ∧ 32765 < 32766 ∧ 32763 < 32764) ∧ (dimsOk 32767 2 4 = true ∧ 0 < 2 ∧ 0 < 4) := by
  decide

/-- START, finish step, CLEAR and reset each change STATE. -/
theorem witness_StateChangesOnlyByTheListedTransitions :
    (nextOf (step { whiteDone with status := .done, moves := [.bus 8 1] })).map State.status = some .busy ∧
      (nextOf (step { State.reset with moves := [.ctrl 1] })).map State.status = some .error ∧
      (nextOf (step whiteDone)).map State.status = some .done ∧
      (nextOf (step { whiteDone with status := .done, moves := [.ctrl 2] })).map State.status = some .idle ∧
      (nextOf (step { whiteDone with moves := [.event .reset] })).map State.status = some .idle := by decide

theorem witness_FifteenStepsAreOnePixelStep :
    (Inv whiteStart ∧ whiteStart.status = .busy ∧ whiteStart.uop = 0 ∧ CoreTurnNext whiteStart [] ∧
      whiteStart.p.toNat ∉ whiteStart.settled) ∧
    (Inv { whiteStart with settled := [0] } ∧ CoreTurnNext { whiteStart with settled := [0] } [] ∧
      ({ whiteStart with settled := [0] } : State).p.toNat ∈ ({ whiteStart with settled := [0] } : State).settled) :=
  ⟨⟨inv_whiteStart, by decide, by decide, .inl ⟨rfl, rfl⟩, by decide⟩, inv_whiteStart, .inl ⟨rfl, rfl⟩, by decide⟩

/-- The state of program P1 before its START. -/
def whiteReady : State := { whiteStart with status := .idle, moves := [.bus 8 1] }

theorem witness_ConversionFillsTheGridAndEndsInDone :
    Inv whiteReady ∧ whiteReady.status ≠ .busy ∧ (1 : Word).toNat % 2 = 1 ∧ whiteReady.moves = [.bus 8 1] ∧
      dimsOk 32767 whiteReady.width.toNat whiteReady.height.toNat = true ∧
      whiteReady.buflen.toNat = expectedSize whiteReady.width.toNat whiteReady.height.toNat := by
  refine ⟨⟨?_, ?_, ?_, ?_⟩, by decide, by decide, by decide, by decide, by decide⟩
  · unfold MemoriesCanonical; decide
  · unfold ErrorsAgree; decide
  · intro h; cases h
  · intro h; cases h

/-- The same frame with other datapath registers and other values of the model's own fields. -/
def whiteDoneToo : State := { whiteDone with dp := { Datapath.reset with la := 3 }, hostRead := some 1, draws := 4 }

theorem witness_FinalGridIsAFunctionOfTheFrame :
    ConversionInv whiteDone ∧ ConversionInv whiteDoneToo ∧
      (nextOf (step whiteDone)).map State.status = some .done ∧
      (nextOf (step whiteDoneToo)).map State.status = some .done ∧ whiteDone.status = .busy ∧
      whiteDoneToo.status = .busy ∧ whiteDone.width = whiteDoneToo.width ∧ whiteDone.height = whiteDoneToo.height ∧
      (∀ a, a < whiteDone.buflen.toNat → whiteDone.frameByte a = whiteDoneToo.frameByte a) ∧
      7 < whiteDone.width.toNat * whiteDone.height.toNat ∧ 7 ∉ whiteDone.settled ∧ 7 ∉ whiteDoneToo.settled :=
  ⟨conversionInv_whiteDone,
    ⟨⟨inv_whiteDone.1, inv_whiteDone.2.1, inv_whiteDone.2.2.1, fun _ h => absurd rfl h⟩, fun _ h => absurd rfl h,
      conversionInv_whiteDone.2.2⟩,
    by decide, by decide, by decide, by decide, by decide, by decide, fun _ _ => rfl, by decide, by decide, by decide⟩

/-- Two buffers of a 2 by 4 frame that differ in an unread byte, 10. -/
theorem witness_UnreadChromaBytesDoNotMatter :
    dimsOk 32767 2 4 = true ∧ 1 < 2 ∧ 3 < 4 ∧
      (∀ a, a < 2 * 4 → (0 : Byte) = if a = 10 then 1 else 0) ∧
      (∀ r c, r < 4 / 4 → c < 2 → (0 : Byte) = if 2 * 4 + 2 * 2 * r + c = 10 then 1 else 0) ∧
      (0 : Byte) ≠ if 10 = 10 then 1 else 0 := by
  refine ⟨by decide, by decide, by decide, fun a h => ?_, fun r c hr hc => ?_, by decide⟩
  · rw [if_neg (by omega)]
  · rw [if_neg (by omega)]

theorem witness_ChromaIsReplicatedOverTwoByFourBlocks :
    (dimsOk 32767 4 8 = true ∧ 1 < 4 / 2 ∧ 1 < 8 / 4 ∧ 2 < 4 ∧ 5 < 8 ∧ chromaIndexAt 4 2 5 = 1 + 1 * 4) ∧
      (2 / 2 = 3 / 2 ∧ 4 / 4 = 7 / 4) := by decide

end Sys2Proof.Tests
end

section
/-! PROOFS. What an operation can do when it goes on, said once over the operations; the three configuration registers
and what leaves them alone; the reset state (10_state.md R35, R37). -/

namespace Sys2Proof.Machine

/-! ## The effect of an operation -/

/-- Micro-operations 0 to 12: those that write datapath registers only. -/
def datapathOps : List Instr :=
  [.xySplit, .lumaAddr, .lumaLd, .chromaAddr, .chromaLd, .chromaSplit, .center, .macR, .macG, .macB, .trunc, .clamp,
    .pack]

/-- The states an operation can go on to, with the condition under which it does (`effect_of_exec_eq_next`). Which
datapath registers a micro-operation writes is left open. -/
inductive Effect (s : State) : Instr → State → Prop where
  | read {offset : Nat} {r : HostReg} (hr : hostRegAt offset = some r) :
      Effect s (.rd offset) (s.setHostRead (some (s.readReg r)))
  | write {offset : Nat} {r : HostReg} (data : Word) (hr : hostRegAt offset = some r) :
      Effect s (.wr offset data) (s.writeReg r data)
  | nop (reserved : BitVec 30) : Effect s (.nop reserved) s
  | start (clearBit : Bool) (reserved : BitVec 30) : Effect s (.start clearBit reserved) s.startCommand
  | clear (reserved : BitVec 30) : Effect s (.clear reserved) s.clearCommand
  | datapath {i : Instr} (dp : Datapath) (hi : i ∈ datapathOps) (hp : s.pixelEnabled = true) : Effect s i (s.setDp dp)
  | store (hp : s.pixelEnabled = true) (hg : s.p.toNat < pixelGridEnd) : Effect s .pixSt s.storePixel
  | advance (hp : s.pixelEnabled = true) : Effect s .advance (s.setP (s.p + 1))
  | finish (hp : s.finishEnabled = true) : Effect s .finish (s.setStatus .done)

theorem State.pixelEnabled_of_microOp_eq_next {s t : State} {o : Host.Outcome State Fault Refusal}
    (h : s.microOp o = .next t) : s.pixelEnabled = true ∧ o = .next t := by
  rwa [s.microOp_eq_next, ← s.pixelEnabled_iff] at h

/-- A micro-operation whose effect, where it goes on, is on the datapath registers. -/
theorem effect_of_microOp {s t : State} {i : Instr} {o : Host.Outcome State Fault Refusal} (hi : i ∈ datapathOps)
    (ho : ∀ u, o = .next u → ∃ dp, u = s.setDp dp) (h : s.microOp o = .next t) : Effect s i t := by
  obtain ⟨hp, hn⟩ := State.pixelEnabled_of_microOp_eq_next h
  obtain ⟨dp, rfl⟩ := ho t hn
  exact .datapath dp hi hp

theorem effect_of_microOp_setDp {s t : State} {i : Instr} {dp : Datapath} (hi : i ∈ datapathOps)
    (h : s.microOp (.next (s.setDp dp)) = .next t) : Effect s i t :=
  effect_of_microOp hi (fun _ hu => ⟨dp, by cases hu; rfl⟩) h

theorem effect_of_execRd {s t : State} {offset : Nat} (h : execRd offset s = .next t) : Effect s (.rd offset) t := by
  unfold execRd at h
  split at h
  · cases h
  · next hr => cases h; exact .read hr

theorem effect_of_execWr {s t : State} {offset : Nat} {data : Word} (h : execWr offset data s = .next t) :
    Effect s (.wr offset data) t := by
  unfold execWr at h
  split at h
  · cases h
  · next hr => cases h; exact .write data hr

theorem effect_of_execLumaLd {s t : State} (h : execLumaLd s = .next t) : Effect s .lumaLd t := by
  refine effect_of_microOp (by decide) (fun u hu => ?_) h
  split at hu
  · cases hu
  · cases hu; exact ⟨_, rfl⟩

theorem effect_of_execChromaLd {s t : State} (h : execChromaLd s = .next t) : Effect s .chromaLd t := by
  refine effect_of_microOp (by decide) (fun u hu => ?_) h
  split at hu
  · cases hu
  · cases hu; exact ⟨_, rfl⟩

theorem effect_of_execPixSt {s t : State} (h : execPixSt s = .next t) : Effect s .pixSt t := by
  obtain ⟨hp, hn⟩ := State.pixelEnabled_of_microOp_eq_next h
  split at hn
  · next hg => cases hn; exact .store hp hg
  · cases hn

theorem effect_of_execAdvance {s t : State} (h : execAdvance s = .next t) : Effect s .advance t := by
  obtain ⟨hp, hn⟩ := State.pixelEnabled_of_microOp_eq_next h
  cases hn
  exact .advance hp

theorem effect_of_execFinish {s t : State} (h : execFinish s = .next t) : Effect s .finish t := by
  unfold execFinish at h
  split at h
  · next hp => cases h; exact .finish hp
  · cases h

theorem effect_of_exec_eq_next {i : Instr} {s t : State} (h : exec i s = .next t) : Effect s i t := by
  cases i with
  | rd offset => exact effect_of_execRd h
  | wr offset data => exact effect_of_execWr h
  | nop reserved => cases h; exact .nop reserved
  | start clearBit reserved => cases h; exact .start clearBit reserved
  | clear reserved => cases h; exact .clear reserved
  | lumaLd => exact effect_of_execLumaLd h
  | chromaLd => exact effect_of_execChromaLd h
  | pixSt => exact effect_of_execPixSt h
  | advance => exact effect_of_execAdvance h
  | finish => exact effect_of_execFinish h
  | xySplit | lumaAddr | chromaAddr | chromaSplit | center | macR | macG | macB | trunc | clamp | pack =>
    exact effect_of_microOp_setDp (by decide) h

/-! ## Register accesses at an offset that exists -/

theorem exec_rd_of_hostRegAt {offset : Nat} {r : HostReg} (hr : hostRegAt offset = some r) (s : State) :
    exec (.rd offset) s = .next (s.setHostRead (some (s.readReg r))) := by
  simp only [exec, execRd, hr]

theorem exec_wr_of_hostRegAt {offset : Nat} {r : HostReg} (hr : hostRegAt offset = some r) (data : Word) (s : State) :
    exec (.wr offset data) s = .next (s.writeReg r data) := by
  simp only [exec, execWr, hr]

/-- In BUSY a write to a register other than CTRL is dropped (R37, R116). -/
theorem State.writeReg_of_busy {s : State} {r : HostReg} (hb : s.status = .busy) (hr : r ≠ .ctrl) (data : Word) :
    s.writeReg r data = s := by
  rcases s.writeReg_cases r data with ⟨hc, -⟩ | ⟨hn, -⟩ | ⟨hn, -⟩ | ⟨hn, -⟩ | he
  · exact absurd hc hr
  · exact absurd hb hn
  · exact absurd hb hn
  · exact absurd hb hn
  · exact he

/-! ## The configuration -/

/-- WIDTH, HEIGHT and BUFLEN, the registers that say what a conversion converts (R25, R26). -/
def State.configuration (s : State) : Word × Word × Word := (s.width, s.height, s.buflen)

theorem State.configuration_eq_iff {s t : State} :
    t.configuration = s.configuration ↔ t.width = s.width ∧ t.height = s.height ∧ t.buflen = s.buflen := by
  simp [State.configuration]

@[simp] theorem State.configuration_setMoves (s : State) (ms : List Move) :
    (s.setMoves ms).configuration = s.configuration := rfl

@[simp] theorem State.configuration_storePixel (s : State) : s.storePixel.configuration = s.configuration := by
  simp [State.configuration]

@[simp] theorem State.configuration_startCommand (s : State) : s.startCommand.configuration = s.configuration := by
  rcases s.startCommand_cases with ⟨-, he⟩ | ⟨-, -, he⟩ | ⟨-, -, -, he⟩ | ⟨-, -, -, he⟩ <;> rw [he] <;> rfl

@[simp] theorem State.configuration_clearCommand (s : State) : s.clearCommand.configuration = s.configuration := by
  rcases s.clearCommand_cases with ⟨-, he⟩ | ⟨-, he⟩
  · rw [he]; rfl
  · rw [he]

@[simp] theorem State.configuration_command (s : State) (data : Word) :
    (s.command data).configuration = s.configuration := by
  rcases s.command_cases data with ⟨-, he⟩ | ⟨-, he⟩ | ⟨-, he⟩ <;> simp [he]

@[simp] theorem State.configuration_afterWord (s : State) (w : InstrWord) :
    (s.afterWord w).configuration = s.configuration := by
  cases w <;> rfl

theorem State.configuration_writeReg_of_busy {s : State} (hb : s.status = .busy) (r : HostReg) (data : Word) :
    (s.writeReg r data).configuration = s.configuration := by
  by_cases hr : r = .ctrl
  · subst hr; exact s.configuration_command data
  · rw [State.writeReg_of_busy hb hr]

theorem configuration_of_exec_of_busy {i : Instr} {s t : State} (hb : s.status = .busy) (h : exec i s = .next t) :
    t.configuration = s.configuration := by
  cases effect_of_exec_eq_next h with
  | write data hr => exact State.configuration_writeReg_of_busy hb _ data
  | start => exact s.configuration_startCommand
  | clear => exact s.configuration_clearCommand
  | store => exact s.configuration_storePixel
  | read | nop | datapath | advance | finish => rfl

/-- In every STATE the outside world's events but reset leave the configuration alone. -/
theorem State.configuration_of_hostEvent {s t : State} {e : HostEvent} (he : e ≠ .reset) (h : s.hostEvent e = .next t) :
    t.configuration = s.configuration := by
  rcases s.hostEvent_cases e t h with
    ⟨addr, bytes, -, -, ⟨-, rfl⟩ | ⟨-, rfl⟩⟩ | ⟨v, n, rfl, -⟩ | ⟨i, v, -, -, ⟨-, rfl⟩ | ⟨-, rfl⟩⟩ | ⟨hr, -⟩
  case inr.inr.inr => exact absurd hr he
  all_goals rfl

theorem configuration_of_step_of_busy {s t : State} (hb : s.status = .busy) (hr : s.fetch.1 ≠ .event .reset)
    (h : step s = .next t) : t.configuration = s.configuration := by
  cases hf : s.fetch.1 with
  | word w =>
    rw [step_of_word hf] at h
    obtain ⟨u, hu, rfl⟩ := retire_eq_next.mp h
    calc (u.afterWord w).configuration
        _ = u.configuration := u.configuration_afterWord w
        _ = (s.setMoves s.fetch.2).configuration := configuration_of_exec_of_busy (by simpa using hb) hu
        _ = s.configuration := s.configuration_setMoves _
  | event e =>
    rw [step_of_event hf] at h
    have he : e ≠ .reset := fun he => hr (by rw [hf, he])
    exact (State.configuration_of_hostEvent he h).trans (s.configuration_setMoves _)
  | wait =>
    rw [step_of_wait hf] at h
    cases h
    rfl

/-- Settles O11: a write is dropped by the rule of register writes, and a step is an operation, an event or waiting, each
of which keeps the configuration in BUSY. -/
theorem configurationIsConstantWhileBusy : Obligations.ConfigurationIsConstantWhileBusy := by
  refine ⟨fun s v hb => ?_, fun s t hb hr h => State.configuration_eq_iff.mp (configuration_of_step_of_busy hb hr h)⟩
  have dropped {offset : Nat} {r : HostReg} (ho : hostRegAt offset = some r) (hr : r ≠ .ctrl) :
      exec (.wr offset v) s = .next s := by
    rw [exec_wr_of_hostRegAt ho, State.writeReg_of_busy hb hr]
  exact ⟨dropped (r := .width) rfl (by decide), dropped (r := .height) rfl (by decide),
    dropped (r := .buflen) rfl (by decide)⟩

/-! ## Reset -/

theorem State.hostReset_pg_of_not_busy {s : State} (hb : s.status ≠ .busy) : s.hostReset.pg = s.pg := if_neg hb

/-- Outside BUSY, with no move queued, a step changes nothing (R179). -/
theorem step_of_not_busy_of_no_moves {s : State} (hb : s.status ≠ .busy) (hm : s.moves = []) : step s = .next s := by
  have ho : s.pixelStepOpen = false := by simp [State.pixelStepOpen, hb]
  have hf : s.fetch = (.wait, []) := by rw [s.fetch_of_empty ho hm, s.coreTurn_of_not_busy hb]
  rw [step_of_wait (by rw [hf]), hf]
  simp only [State.setMoves, ← hm]

/-- Outside BUSY START ends in INVALID_DIMENSIONS where the dimension check fails (R111, R113). -/
theorem State.startCommand_of_not_dimsPass {s : State} (hb : s.status ≠ .busy) (hd : s.dimsPass = false) :
    s.startCommand = s.clearErrors.raiseError .invalidDimensions 0 0 := by
  simpa [hb, hd] using s.startCommand_cases

/-- Settles O44: the registers by the definition of reset, a read of CTRL by the rule of reads, the step by waiting on an
empty queue, and START by its dimension check, which a WIDTH of 0 fails. -/
theorem resetStateIsIdleWithZeroRegisters : Obligations.ResetStateIsIdleWithZeroRegisters := by
  refine ⟨⟨rfl, rfl, rfl, rfl, rfl, rfl, rfl⟩, fun s => ?_, ?_, ?_, fun c r => ?_⟩
  · exact ⟨rfl, rfl, rfl, rfl, rfl, rfl, rfl, rfl, State.hostReset_pg_of_not_busy⟩
  · exact exec_rd_of_hostRegAt (r := .ctrl) rfl State.reset
  · exact step_of_not_busy_of_no_moves (by decide) rfl
  · have hd : State.reset.dimsPass = false := by decide
    exact congrArg Host.Outcome.next (State.startCommand_of_not_dimsPass (by decide) hd)

end Sys2Proof.Machine
end

section
/-! PROOFS. Reads of the frame buffer are little-endian (20_memory.md R52). -/

namespace Sys2Proof.Machine

/-! ## Two bytes as one number -/

/-- The byte at the lower address is in bits 7:0 (R52). -/
theorem toNat_append_byte (hi lo : Byte) : (hi ++ lo).toNat = lo.toNat + 256 * hi.toNat := by
  rw [BitVec.toNat_append, Nat.shiftLeft_eq, Nat.mul_comm, ← Nat.two_pow_add_eq_or_of_lt lo.isLt, Nat.add_comm]

/-! ## Reads of FB -/

/-- Settles O38: a read of one byte gives the byte of FB, which is the one last written where there is one; a read of two
appends the bytes that two reads of one give, the one at the higher address on top. -/
theorem frameBufferReadsAreLittleEndian : Obligations.FrameBufferReadsAreLittleEndian := by
  refine ⟨fun s a h => ?_, fun s a h => ?_⟩
  · exact ⟨s.frameByte a, s.memRead1_of_lt h, fun c hc => s.frameByte_of_read hc⟩
  · have hlo : a < s.buflen.toNat := Nat.lt_of_succ_lt h
    exact ⟨s.frameByte a, s.frameByte (a + 1), s.frameByte (a + 1) ++ s.frameByte a,
      s.memRead1_of_lt hlo, s.memRead1_of_lt h, s.memRead2_of_lt h, toNat_append_byte _ _⟩

end Sys2Proof.Machine
end

section
/-! PROOFS. Format CTRL: the command by its two bits, the other bits without effect (30_encoding.md R82, R83); format
BUS: the access and the register by the header (R81). -/

namespace Sys2Proof.Machine

/-! ## Format CTRL -/

theorem toNat_reserved (d : Word) : (d.extractLsb' 2 30).toNat = d.toNat / 4 := by
  rw [BitVec.extractLsb'_toNat, Nat.shiftRight_eq_div_pow]
  exact Nat.mod_eq_of_lt (by omega)

theorem decode_ctrl_of_odd {d : Word} (h : d.toNat % 2 = 1) :
    decode (.ctrl d) = .start (d.getLsbD 1) (d.extractLsb' 2 30) :=
  if_pos ((getLsbD_zero_iff d).mpr h)

theorem decode_ctrl_of_even {d : Word} (h : d.toNat % 2 = 0) :
    decode (.ctrl d) = if d.getLsbD 1 then .clear (d.extractLsb' 2 30) else .nop (d.extractLsb' 2 30) :=
  if_neg (by rw [getLsbD_zero_iff]; omega)

theorem decode_ctrl_of_mod_four_eq_two {d : Word} (h : d.toNat % 4 = 2) :
    decode (.ctrl d) = .clear (d.extractLsb' 2 30) := by
  rw [decode_ctrl_of_even (by omega), if_pos ((getLsbD_one_iff d).mpr (by omega))]

theorem decode_ctrl_of_mod_four_eq_zero {d : Word} (h : d.toNat % 4 = 0) :
    decode (.ctrl d) = .nop (d.extractLsb' 2 30) := by
  rw [decode_ctrl_of_even (by omega), if_neg (by rw [getLsbD_one_iff]; omega)]

/-- Settles O4: the decoder's equation in each of the three cases, with the operands' values from bit 1 and from bits
31:2 of the word. -/
theorem controlWordDecodesToOneOfThreeCommands : Obligations.ControlWordDecodesToOneOfThreeCommands := by
  refine fun d => ⟨fun h => ?_, fun h => ?_, fun h => ?_⟩
  · exact ⟨_, _, decode_ctrl_of_odd h, getLsbD_one_iff d, toNat_reserved d⟩
  · exact ⟨_, decode_ctrl_of_mod_four_eq_two h, toNat_reserved d⟩
  · exact ⟨_, decode_ctrl_of_mod_four_eq_zero h, toNat_reserved d⟩

/-- Settles O5: words that agree in bits 1:0 decode to the same command, and no command looks at its operands. -/
theorem reservedControlBitsAreIgnored : Obligations.ReservedControlBitsAreIgnored := by
  intro d e s hde
  have cover : d.toNat % 2 = 1 ∨ d.toNat % 4 = 2 ∨ d.toNat % 4 = 0 := by omega
  rcases cover with h | h | h
  · rw [decode_ctrl_of_odd h, decode_ctrl_of_odd (d := e) (by omega)]; rfl
  · rw [decode_ctrl_of_mod_four_eq_two h, decode_ctrl_of_mod_four_eq_two (d := e) (by omega)]; rfl
  · rw [decode_ctrl_of_mod_four_eq_zero h, decode_ctrl_of_mod_four_eq_zero (d := e) (by omega)]; rfl

/-! ## Format BUS -/

theorem decode_bus_of_read {header : BitVec 4} (h : header.getLsbD 3 = false) (d : Word) :
    decode (.bus header d) = .rd (4 * (header.extractLsb' 0 3).toNat) :=
  if_neg (Bool.eq_false_iff.mp h)

theorem decode_bus_of_write {header : BitVec 4} (h : header.getLsbD 3 = true) (d : Word) :
    decode (.bus header d) = .wr (4 * (header.extractLsb' 0 3).toNat) d :=
  if_pos h

/-- Header `idx`: bit 3 clear, and the index in bits 2:0 (R81). -/
theorem read_header_fields : ∀ idx : Fin 8,
    (BitVec.ofNat 4 idx.val).getLsbD 3 = false ∧ ((BitVec.ofNat 4 idx.val).extractLsb' 0 3).toNat = idx.val := by
  decide

/-- Header `8 + idx`: bit 3 set, and the index in bits 2:0 (R81). -/
theorem write_header_fields : ∀ idx : Fin 8,
    (BitVec.ofNat 4 (8 + idx.val)).getLsbD 3 = true ∧
      ((BitVec.ofNat 4 (8 + idx.val)).extractLsb' 0 3).toNat = idx.val := by
  decide

/-- Settles O6: bit 3 of the header gives the access and bits 2:0 the index, so the offset is four times the index. -/
theorem busHeaderNamesTheAccessAndTheRegister : Obligations.BusHeaderNamesTheAccessAndTheRegister := by
  refine ⟨fun idx d => ⟨?_, ?_⟩, by decide⟩
  · obtain ⟨hrw, hidx⟩ := read_header_fields idx
    rw [decode_bus_of_read hrw, hidx]
  · obtain ⟨hrw, hidx⟩ := write_header_fields idx
    rw [decode_bus_of_write hrw, hidx]

end Sys2Proof.Machine
end

section
/-! PROOFS. The register accesses of the host, register by register, and the commands NOP and CLEAR (40_command.md R110,
R112, R115, R116). -/

namespace Sys2Proof.Machine

/-! ## Reads -/

/-- Settles O8: the headers of the reads by O6, and the value by the rule of reads at each of the eight offsets. -/
theorem readReturnsTheRegister : Obligations.ReadReturnsTheRegister := by
  refine ⟨fun idx d => (busHeaderNamesTheAccessAndTheRegister.1 idx d).1, fun s => ?_⟩
  exact ⟨exec_rd_of_hostRegAt (r := .ctrl) rfl s, exec_rd_of_hostRegAt (r := .status) rfl s,
    exec_rd_of_hostRegAt (r := .width) rfl s, exec_rd_of_hostRegAt (r := .height) rfl s,
    exec_rd_of_hostRegAt (r := .buflen) rfl s, exec_rd_of_hostRegAt (r := .errCode) rfl s,
    exec_rd_of_hostRegAt (r := .errActual) rfl s, exec_rd_of_hostRegAt (r := .errExpected) rfl s⟩

/-! ## Writes -/

/-- Executing a CTRL word is the command that a write of it to CTRL is (R83, R116). -/
theorem exec_decode_ctrl (d : Word) (s : State) : exec (decode (.ctrl d)) s = .next (s.command d) := by
  change exec (decodeCtrl d) s = _
  unfold State.command
  rcases decodeCtrl_cases d with ⟨c, r, hd⟩ | ⟨r, hd⟩ | ⟨r, hd⟩ <;> rw [hd] <;> rfl

/-- Settles O10: the headers of the writes by O6; at CTRL both sides are the command, and at every other offset the rule
of writes gives what the register's own line in R116 says. -/
theorem writeReachesTheRegister : Obligations.WriteReachesTheRegister := by
  refine ⟨fun idx d => (busHeaderNamesTheAccessAndTheRegister.1 idx d).2, fun s v => ⟨?_, ?_⟩⟩
  · rw [exec_decode_ctrl]
    exact exec_wr_of_hostRegAt (r := .ctrl) rfl v s
  · exact ⟨exec_wr_of_hostRegAt (r := .width) rfl v s, exec_wr_of_hostRegAt (r := .height) rfl v s,
      exec_wr_of_hostRegAt (r := .buflen) rfl v s, exec_wr_of_hostRegAt (r := .status) rfl v s,
      exec_wr_of_hostRegAt (r := .errCode) rfl v s, exec_wr_of_hostRegAt (r := .errActual) rfl v s,
      exec_wr_of_hostRegAt (r := .errExpected) rfl v s⟩

/-! ## Commands -/

/-- Settles O12: a word with bits 1:0 clear decodes to NOP, which answers the state it was given. -/
theorem nopChangesNothing : Obligations.NopChangesNothing := by
  intro d s h
  rw [decode_ctrl_of_mod_four_eq_zero h]
  exact ⟨⟨_, rfl⟩, rfl⟩

theorem State.clearCommand_of_done_or_error {s : State} (h : s.status = .done ∨ s.status = .error) :
    s.clearCommand = { s with status := .idle, errCode := .noError, errActual := 0, errExpected := 0 } :=
  if_pos h

theorem State.clearCommand_of_idle_or_busy {s : State} (h : s.status = .idle ∨ s.status = .busy) :
    s.clearCommand = s :=
  if_neg (by rcases h with h | h <;> simp [h])

/-- Settles O14: a word with bits 1:0 equal to 2 decodes to CLEAR, which leaves DONE and ERROR for IDLE and does nothing
in the other two states. -/
theorem clearLeavesDoneAndError : Obligations.ClearLeavesDoneAndError := by
  intro d s h
  rw [decode_ctrl_of_mod_four_eq_two h]
  exact ⟨⟨_, rfl⟩, fun hs => congrArg Host.Outcome.next (State.clearCommand_of_done_or_error hs),
    fun hs => congrArg Host.Outcome.next (State.clearCommand_of_idle_or_busy hs)⟩

end Sys2Proof.Machine
end

section
/-! PROOFS. The address calculator on natural numbers: where the addresses of a pixel lie, and which pixels share a chroma
word (41_sample_fetch.md R131, R133, R137 to R139). -/

namespace Sys2Proof.Machine

/-! ## The luma plane -/

/-- The luma samples of a frame fill the addresses below `W × H` (R131). -/
theorem lumaAddressAt_lt {w h x y : Nat} (hx : x < w) (hy : y < h) : lumaAddressAt w x y < w * h := by
  have hrow : (y + 1) * w ≤ h * w := Nat.mul_le_mul_right w hy
  rw [Nat.add_one_mul] at hrow
  rw [lumaAddressAt, Nat.mul_comm w h]
  omega

/-- In raster order the luma address is the pixel counter (R131). -/
theorem lumaAddressAt_mod_div (w p : Nat) : lumaAddressAt w (p % w) (p / w) = p := Nat.mod_add_div' p w

/-! ## The chroma plane

A frame of legal dimensions has `h / 4` rows of `w` chroma words, of which a pixel step reads the first `w / 2` (R53). -/

theorem frame_eq_four_mul_chroma {w h : Nat} (hh : h % 4 = 0) : w * h = 4 * (h / 4 * w) := by
  rw [← Nat.mul_assoc, Nat.mul_div_cancel' (Nat.dvd_of_mod_eq_zero hh), Nat.mul_comm]

/-- The chroma word of a pixel is among the first half of its row (R133). -/
theorem chromaIndexAt_add_le {w h x y : Nat} (hw : w % 2 = 0) (hh : h % 4 = 0) (hx : x < w) (hy : y < h) :
    chromaIndexAt w x y + w / 2 + 1 ≤ h / 4 * w := by
  have hrow : (y / 4 + 1) * w ≤ h / 4 * w := Nat.mul_le_mul_right w (by omega)
  rw [Nat.add_one_mul] at hrow
  rw [chromaIndexAt]
  omega

/-- The largest legal frame is 32766 by 32764 (R113, R138). -/
theorem frame_le_largest {w h : Nat} (hw : w ≤ 32767) (hh : h ≤ 32767) (hw2 : w % 2 = 0) (hh4 : h % 4 = 0) :
    w * h ≤ 1073545224 :=
  calc w * h
    _ ≤ 32766 * 32764 := Nat.mul_le_mul (by omega) (by omega)
    _ = 1073545224 := by norm_num

/-- Settles O50: a frame is four times the `h / 4 * w` chroma words, the chroma word of a pixel has at
least `w / 2` words behind it in its row, and the largest frame bounds every other number. -/
theorem addressesStayInsideTheBuffer : Obligations.AddressesStayInsideTheBuffer := by
  intro w h x y hd hx hy
  obtain ⟨⟨-, hw⟩, ⟨-, hh⟩, hw2, hh4⟩ := (dimsOk_iff _ _ _).mp hd
  have hla := lumaAddressAt_lt hx hy
  have hci := chromaIndexAt_add_le hw2 hh4 hx hy
  have hframe := frame_eq_four_mul_chroma (w := w) hh4
  have hlargest := frame_le_largest hw hh hw2 hh4
  have hrows := Nat.sub_one_mul (h / 4) w
  unfold chromaAddressAt expectedSize
  omega

/-! ## Replication -/

/-- A chroma word index names its column and its row, since a row has more words than half the frame's width (R139). -/
theorem chromaIndexAt_eq_iff {w x y i k : Nat} (hx : x < w) (hi : i < w) :
    chromaIndexAt w x y = i + k * w ↔ x / 2 = i ∧ y / 4 = k := by
  have hx2 : x / 2 < w := by omega
  have hw : 0 < w := by omega
  constructor
  · intro h
    have hcolumn := congrArg (· % w) h
    have hrow := congrArg (· / w) h
    simpa [chromaIndexAt, Nat.mod_eq_of_lt, Nat.div_eq_of_lt, Nat.add_mul_div_right, hw, hx2, hi] using
      And.intro hcolumn hrow
  · rintro ⟨rfl, rfl⟩
    rfl

theorem chromaAddressAt_congr {w h x y x' y' : Nat} (hx : x / 2 = x' / 2) (hy : y / 4 = y' / 4) :
    chromaAddressAt w h x y = chromaAddressAt w h x' y' := by
  simp only [chromaAddressAt, chromaIndexAt, hx, hy]

/-- The colour of a pixel is that of any other with the same luma byte and the same chroma word (R177). -/
theorem pixelAt_congr {f : Nat → Byte} {w h x y x' y' : Nat}
    (hc : chromaAddressAt w h x y = chromaAddressAt w h x' y')
    (hl : f (lumaAddressAt w x y) = f (lumaAddressAt w x' y')) : pixelAt f w h x y = pixelAt f w h x' y' := by
  simp only [pixelAt, hc, hl]

/-- Settles O56: the index gives the column `x / 2` and the row `y / 4`, each of which stands for the pixels of one block,
and the two chroma bytes of a pixel depend on these two numbers alone. -/
theorem chromaIsReplicatedOverTwoByFourBlocks : Obligations.ChromaIsReplicatedOverTwoByFourBlocks := by
  refine ⟨fun w h i k x y _ hi _ hx _ => ?_, fun f w h x y x' y' hx hy => ?_⟩
  · rw [chromaIndexAt_eq_iff hx (by omega)]
    omega
  · have hc := chromaAddressAt_congr (w := w) (h := h) hx hy
    exact ⟨hc, pixelAt_congr hc⟩

end Sys2Proof.Machine
end

section
/-! PROOFS. Micro-operations 0 to 6: the values the address calculator and the upsampler form, as the integers of the
rules, and the two loads (41_sample_fetch.md R130 to R136). -/

namespace Sys2Proof.Machine

/-! ## The pixel's column and row -/

theorem State.toNat_pixelColumn {s : State} (h0 : 0 < s.width.toNat) (hw : s.width.toNat ≤ 32767) :
    s.pixelColumn.toNat = s.p.toNat % s.width.toNat := by
  have hlt : s.p.toNat % s.width.toNat < s.width.toNat := Nat.mod_lt _ h0
  rw [State.pixelColumn, BitVec.toNat_setWidth, BitVec.toNat_umod]
  exact Nat.mod_eq_of_lt (by omega)

theorem State.toNat_pixelRow {s : State} (hp : s.p.toNat < s.frameSize) (hh : s.height.toNat ≤ 32767) :
    s.pixelRow.toNat = s.p.toNat / s.width.toNat := by
  have hlt : s.p.toNat / s.width.toNat < s.height.toNat := Nat.div_lt_of_lt_mul hp
  rw [State.pixelRow, BitVec.toNat_setWidth, BitVec.toNat_udiv]
  exact Nat.mod_eq_of_lt (by omega)

/-- Settles O18: neither number is cut to the 15 bits of its register, since the column is below `W` and the row
below `H`. -/
theorem xySplitDividesTheCounter : Obligations.XySplitDividesTheCounter := by
  refine ⟨rfl, fun s hb hp hw hh => ?_⟩
  have h0 : 0 < s.width.toNat := Nat.pos_of_lt_mul_right hp
  have hx := State.toNat_pixelColumn h0 hw
  have hy := State.toNat_pixelRow hp hh
  exact ⟨s.pixelColumn, s.pixelRow, hx, hy, hx ▸ Nat.mod_lt _ h0, hy ▸ Nat.div_lt_of_lt_mul hp,
    s.microOp_of_enabled _ hb hp⟩

/-! ## The addresses -/

theorem frame_lt_of_le {w h : Nat} (hw : w ≤ 32767) (hh : h ≤ 32767) : w * h < 2 ^ 30 :=
  calc w * h
    _ ≤ 32767 * 32767 := Nat.mul_le_mul hw hh
    _ < 2 ^ 30 := by norm_num

/-- Taking the bits of a word from `k` to the top divides by `2 ^ k`. -/
theorem toNat_extractLsb'_of_top {w k n : Nat} (v : BitVec w) (h : w ≤ k + n) :
    (v.extractLsb' k n).toNat = v.toNat / 2 ^ k := by
  have htop : v.toNat < 2 ^ k * 2 ^ n := by
    rw [← Nat.pow_add]
    exact v.isLt.trans_le (Nat.pow_le_pow_right two_pos h)
  rw [BitVec.extractLsb'_toNat, Nat.shiftRight_eq_div_pow, Nat.mod_eq_of_lt (Nat.div_lt_of_lt_mul htop)]

/-- 32-bit arithmetic is exact where the integer fits 32 bits (R138). -/
theorem toNat_add_mul_of_lt {a b c : Word} (h : a.toNat + b.toNat * c.toNat < 2 ^ 32) :
    (a + b * c).toNat = a.toNat + b.toNat * c.toNat := by
  have hbc : (b * c).toNat = b.toNat * c.toNat := BitVec.toNat_mul_of_lt (by omega)
  rw [BitVec.toNat_add_of_lt (by omega), hbc]

/-- LUMA_ADDR forms the luma address of the pixel in `x` and `y`, where that fits 32 bits (R131, R138). -/
theorem State.toNat_lumaAddress {s : State}
    (h : lumaAddressAt s.width.toNat s.dp.x.toNat s.dp.y.toNat < 2 ^ 32) :
    s.lumaAddress.toNat = lumaAddressAt s.width.toNat s.dp.x.toNat s.dp.y.toNat := by
  have hx : (s.dp.x.setWidth 32).toNat = s.dp.x.toNat := BitVec.toNat_setWidth_of_le (by decide)
  have hy : (s.dp.y.setWidth 32).toNat = s.dp.y.toNat := BitVec.toNat_setWidth_of_le (by decide)
  rw [lumaAddressAt, ← hx, ← hy] at h ⊢
  exact toNat_add_mul_of_lt h

/-- CHROMA_ADDR forms the chroma word index of the pixel in `x` and `y`, where that fits 32 bits (R133, R138). -/
theorem State.toNat_chromaIndex {s : State}
    (h : chromaIndexAt s.width.toNat s.dp.x.toNat s.dp.y.toNat < 2 ^ 32) :
    s.chromaIndex.toNat = chromaIndexAt s.width.toNat s.dp.x.toNat s.dp.y.toNat := by
  have hx : ((s.dp.x.extractLsb' 1 14).setWidth 32).toNat = s.dp.x.toNat / 2 :=
    (BitVec.toNat_setWidth_of_le (by decide)).trans (toNat_extractLsb'_of_top _ (by decide))
  have hy : ((s.dp.y.extractLsb' 2 13).setWidth 32).toNat = s.dp.y.toNat / 4 :=
    (BitVec.toNat_setWidth_of_le (by decide)).trans (toNat_extractLsb'_of_top _ (by decide))
  rw [chromaIndexAt, ← hx, ← hy] at h ⊢
  exact toNat_add_mul_of_lt h

/-- CHROMA_ADDR forms the address of that word, where that fits 32 bits (R133, R138). -/
theorem State.toNat_chromaAddress {s : State}
    (h : chromaAddressAt s.width.toNat s.height.toNat s.dp.x.toNat s.dp.y.toNat < 2 ^ 32) :
    s.chromaAddress.toNat = chromaAddressAt s.width.toNat s.height.toNat s.dp.x.toNat s.dp.y.toNat := by
  rw [chromaAddressAt] at h ⊢
  have hframe : (s.width * s.height).toNat = s.width.toNat * s.height.toNat := BitVec.toNat_mul_of_lt (by omega)
  have hci := State.toNat_chromaIndex (s := s) (by omega)
  rw [← hframe, ← hci] at h ⊢
  exact toNat_add_mul_of_lt h

/-- Settles O19: the address of a pixel inside the frame lies in the luma plane, so it fits 32 bits; at the pixel of `P`
it is `P`. -/
theorem lumaAddressIsRowMajor : Obligations.LumaAddressIsRowMajor := by
  refine ⟨rfl, fun s hb hp hw hh hx hy => ?_⟩
  have hlt := lumaAddressAt_lt hx hy
  have hframe := frame_lt_of_le hw hh
  have hla := State.toNat_lumaAddress (s := s) (by omega)
  refine ⟨s.lumaAddress, hla, by omega, fun hxp hyp => ?_, s.microOp_of_enabled _ hb hp⟩
  rw [hxp, hyp, lumaAddressAt_mod_div] at hla
  exact BitVec.eq_of_toNat_eq hla

/-- Settles O21: the chroma word of a pixel lies inside the frame's chroma plane, so index and address fit 32 bits. -/
theorem chromaAddressServesTwoByFourBlocks : Obligations.ChromaAddressServesTwoByFourBlocks := by
  refine ⟨rfl, fun s hb hp hw hh hw2 hh4 hx hy => ?_⟩
  have hle := chromaIndexAt_add_le hw2 hh4 hx hy
  have hfour := frame_eq_four_mul_chroma (w := s.width.toNat) hh4
  have hframe := frame_lt_of_le hw hh
  have hci := State.toNat_chromaIndex (s := s) (by omega)
  have hca := State.toNat_chromaAddress (s := s) (by rw [chromaAddressAt]; omega)
  rw [chromaAddressAt, ← hci] at hca
  exact ⟨s.chromaIndex, s.chromaAddress, hci, hca, by omega, by omega, by omega, s.microOp_of_enabled _ hb hp⟩

/-! ## The loads -/

theorem exec_lumaLd_of_enabled {s : State} (hb : s.status = .busy) (hp : s.p.toNat < s.frameSize)
    (ha : s.dp.la.toNat < s.buflen.toNat) :
    exec .lumaLd s = .next (s.setDp { s.dp with yv := s.frameByte s.dp.la.toNat }) := by
  refine (s.microOp_of_enabled _ hb hp).trans ?_
  rw [s.memRead1_of_lt ha]

theorem exec_chromaLd_of_enabled {s : State} (hb : s.status = .busy) (hp : s.p.toNat < s.frameSize)
    (ha : s.dp.ca.toNat + 1 < s.buflen.toNat) :
    exec .chromaLd s = .next (s.setDp
      { s.dp with cw := s.frameByte (s.dp.ca.toNat + 1) ++ s.frameByte s.dp.ca.toNat }) := by
  refine (s.microOp_of_enabled _ hb hp).trans ?_
  rw [s.memRead2_of_lt ha]

/-- Settles O20: the load reads the byte of FB, which is the one last written where there is one. -/
theorem lumaLoadReadsOneByte : Obligations.LumaLoadReadsOneByte := by
  refine ⟨rfl, fun s hb hp ha => ?_⟩
  exact ⟨s.frameByte s.dp.la.toNat, fun c => s.frameByte_of_read, exec_lumaLd_of_enabled hb hp ha⟩

/-- Settles O22: the load reads two bytes of FB, the one at the lower address in bits 7:0. -/
theorem chromaLoadReadsALittleEndianWord : Obligations.ChromaLoadReadsALittleEndianWord := by
  refine ⟨rfl, fun s hb hp ha => ?_⟩
  exact ⟨s.frameByte (s.dp.ca.toNat + 1) ++ s.frameByte s.dp.ca.toNat, s.frameByte s.dp.ca.toNat,
    s.frameByte (s.dp.ca.toNat + 1), fun c => s.frameByte_of_read, fun c => s.frameByte_of_read,
    toNat_append_byte _ _, exec_chromaLd_of_enabled hb hp ha⟩

/-! ## The upsampler -/

theorem toNat_chromaU (cw : BitVec 16) : (chromaU cw).toNat = cw.toNat % 256 :=
  BitVec.extractLsb'_toNat 0 8 cw

theorem toNat_chromaV (cw : BitVec 16) : (chromaV cw).toNat = cw.toNat / 256 :=
  toNat_extractLsb'_of_top cw (by decide)

/-- Settles O23: the low byte is the remainder by 256 and the high byte the quotient. -/
theorem chromaSplitTakesLowByteAsU : Obligations.ChromaSplitTakesLowByteAsU := by
  refine ⟨rfl, fun s hb hp => ?_⟩
  exact ⟨chromaU s.dp.cw, chromaV s.dp.cw, toNat_chromaU _, toNat_chromaV _, s.microOp_of_enabled _ hb hp⟩

/-- Centring is exact: 128 off a byte always fits a signed byte (R136). -/
theorem toInt_centre (b : Byte) : (centre b).toInt = (b.toNat : Int) - 128 := by
  have hlt : b.toNat < 256 := b.isLt
  have hnat : (centre b).toNat = (b.toNat + 128) % 256 := by
    rw [centre, BitVec.toNat_sub, Nat.add_comm]
    rfl
  rw [BitVec.toInt_eq_toNat_cond, hnat]
  split <;> omega

/-- Taking 128 off modulo 256 inverts bit 7 (R93). -/
theorem centre_eq_xor (b : Byte) : centre b = b ^^^ 0x80 := by
  revert b
  decide

/-- Settles O24: each of the two is a byte centred. -/
theorem centerSubtracts128 : Obligations.CenterSubtracts128 := by
  refine ⟨rfl, fun s hb hp => ?_⟩
  exact ⟨centre s.dp.ub, centre s.dp.vb, toInt_centre _, toInt_centre _, centre_eq_xor _, centre_eq_xor _,
    s.microOp_of_enabled _ hb hp⟩

end Sys2Proof.Machine
end

section
/-! PROOFS. The colour matrix: the coefficients, the ranges of the three channels, how near a channel comes to an
integer, and the offset form (42_colour_matrix.md R150 to R153, R159; 43_clamp_store.md R172). -/

namespace Sys2Proof.Machine

/-! ## The coefficients -/

/-- Settles O25: the coefficients by exact arithmetic on the decimal constants. -/
theorem coefficientsFollowFromTheConstants : Obligations.CoefficientsFollowFromTheConstants := by
  have hwg : wg = 587 / 1000 := by norm_num [wg, wr, wb]
  have hRV : kRV = (1 - wr) / vmax := by norm_num [kRV, wr, vmax]
  have hGU : kGU = wb * (1 - wb) / (umax * wg) := by norm_num [hwg, kGU, wb, umax]
  have hGV : kGV = wr * (1 - wr) / (vmax * wg) := by norm_num [hwg, kGV, wr, vmax]
  have hBU : kBU = (1 - wb) / umax := by norm_num [kBU, wb, umax]
  have hGU' : kGU = 15529365 / 39349545 := by norm_num [kGU]
  have hGV' : kGV = 22846291 / 39349545 := by norm_num [kGV]
  refine ⟨rfl, rfl, hwg, rfl, rfl, hRV, hGU, hGV, hBU, hGU', hGV', by norm_num [kRV], by norm_num [kGU],
    by norm_num [kGV], by norm_num [kBU], fun yv u v => ⟨?_, ?_, ?_⟩⟩
  · rw [channelR]; ring
  · rw [channelG]; ring
  · rw [channelB]; ring

/-! ## The ranges of the channels -/

theorem toInt_byte_bounds (v : BitVec 8) : -128 ≤ v.toInt ∧ v.toInt ≤ 127 :=
  ⟨v.le_toInt, Int.le_of_lt_add_one v.toInt_lt⟩

theorem cast_toInt_byte_bounds (v : BitVec 8) : -128 ≤ (v.toInt : Rat) ∧ (v.toInt : Rat) ≤ 127 := by
  exact_mod_cast toInt_byte_bounds v

theorem cast_toNat_byte_bounds (b : Byte) : 0 ≤ (b.toNat : Rat) ∧ (b.toNat : Rat) ≤ 255 := by
  exact_mod_cast And.intro (Nat.zero_le b.toNat) (Nat.le_of_lt_succ b.isLt)

theorem channelR_bounds (yv : Byte) (v : BitVec 8) :
    -128 * 701 / 615 ≤ channelR yv v ∧ channelR yv v ≤ 255 + 127 * 701 / 615 := by
  have hy := cast_toNat_byte_bounds yv
  have hv := cast_toInt_byte_bounds v
  rw [channelR, kRV]
  constructor <;> linarith

theorem channelG_bounds (yv : Byte) (u v : BitVec 8) :
    -(127 * 15529365 + 127 * 22846291 : Rat) / 39349545 ≤ channelG yv u v ∧
      channelG yv u v ≤ 255 + (128 * 15529365 + 128 * 22846291 : Rat) / 39349545 := by
  have hy := cast_toNat_byte_bounds yv
  have hu := cast_toInt_byte_bounds u
  have hv := cast_toInt_byte_bounds v
  rw [channelG, kGU, kGV]
  constructor <;> linarith

theorem channelB_bounds (yv : Byte) (u : BitVec 8) :
    -128 * 443 / 218 ≤ channelB yv u ∧ channelB yv u ≤ 255 + 127 * 443 / 218 := by
  have hy := cast_toNat_byte_bounds yv
  have hu := cast_toInt_byte_bounds u
  rw [channelB, kBU]
  constructor <;> linarith

/-! ## The distance of the red and the blue channel from the integers

A channel less an integer is an integer over the channel's denominator. -/

theorem channelR_sub_intCast (yv : Byte) (v : BitVec 8) (n : Int) :
    channelR yv v - n = (((yv.toNat - n) * 615 + v.toInt * 701 : Int) : Rat) / 615 := by
  rw [channelR, kRV]
  push_cast
  ring

theorem channelB_sub_intCast (yv : Byte) (u : BitVec 8) (n : Int) :
    channelB yv u - n = (((yv.toNat - n) * 218 + u.toInt * 443 : Int) : Rat) / 218 := by
  rw [channelB, kBU]
  push_cast
  ring

/-- The value of the sum fixes `v` modulo 615; for the values from -2 to 2, only `v = 0` is in range. -/
theorem three_le_abs_mul_615_add_mul_701 {v : Int} (hv : -128 ≤ v ∧ v ≤ 127) (h0 : v ≠ 0) (k : Int) :
    3 ≤ |k * 615 + v * 701| := by
  by_contra hlt
  obtain ⟨c, hc⟩ : ∃ c, k * 615 + v * 701 = c := ⟨_, rfl⟩
  have hcases : c = -2 ∨ c = -1 ∨ c = 0 ∨ c = 1 ∨ c = 2 := by
    rw [hc, le_abs] at hlt
    omega
  rcases hcases with rfl | rfl | rfl | rfl | rfl <;> omega

/-- 443 and 218 are coprime, and no nonzero multiple of 218 is in range. -/
theorem one_le_abs_mul_218_add_mul_443 {u : Int} (hu : -128 ≤ u ∧ u ≤ 127) (h0 : u ≠ 0) (k : Int) :
    1 ≤ |k * 218 + u * 443| := by
  rw [le_abs]
  omega

theorem channelR_distance (yv : Byte) {v : BitVec 8} (h0 : v.toInt ≠ 0) (n : Int) :
    3 / 615 ≤ |channelR yv v - n| := by
  have hnum := three_le_abs_mul_615_add_mul_701 (toInt_byte_bounds v) h0 (yv.toNat - n)
  rw [channelR_sub_intCast, abs_div, Nat.abs_ofNat]
  exact div_le_div_of_nonneg_right (mod_cast hnum) (by norm_num)

theorem channelB_distance (yv : Byte) {u : BitVec 8} (h0 : u.toInt ≠ 0) (n : Int) :
    1 / 218 ≤ |channelB yv u - n| := by
  have hnum := one_le_abs_mul_218_add_mul_443 (toInt_byte_bounds u) h0 (yv.toNat - n)
  rw [channelB_sub_intCast, abs_div, Nat.abs_ofNat]
  exact div_le_div_of_nonneg_right (mod_cast hnum) (by norm_num)

/-! ## The distance of the green channel from the integers

Where `Gv - n` is as near zero as R152 says, its numerator ties `U`, `V` and `Yv - n` to a plane, of which only three
points have `U` and `V` in range. -/

/-- The numerator of `k - U × kGU - V × kGV` over 39349545 (R152). -/
def greenNumerator (k u v : Int) : Int := k * 39349545 - u * 15529365 - v * 22846291

theorem channelG_sub_intCast (yv : Byte) (u v : BitVec 8) (n : Int) :
    channelG yv u v - n = (greenNumerator (yv.toNat - n) u.toInt v.toInt : Rat) / 39349545 := by
  rw [channelG, kGU, kGV, greenNumerator]
  push_cast
  ring

/-- The combination `hcomb` of the numerator with `u` and `v` is a multiple of 39349545 below 39349545, and so zero. -/
theorem plane_of_abs_greenNumerator_le {k u v : Int} (hu : -128 ≤ u ∧ u ≤ 127) (hv : -128 ≤ v ∧ v ≤ 127)
    (h : |greenNumerator k u v| ≤ 280) : 7925 * u + 11659 * v = 20081 * k := by
  have hcomb : 39349545 * (7925 * u + 11659 * v - 20081 * k) =
      -20081 * greenNumerator k u v - 34440 * u - 24416 * v := by
    rw [greenNumerator]
    ring
  rw [abs_le] at h
  omega

/-- (103, 85, 90) and (-46, 157, 73) are a basis of the integer points of the plane. -/
theorem exists_coordinates_of_plane {k u v : Int} (h : 7925 * u + 11659 * v = 20081 * k) :
    ∃ t e : Int, u = 103 * t - 46 * e ∧ v = 85 * t + 157 * e ∧ k = 90 * t + 73 * e := by
  refine ⟨7 * u - 8 * k + 906 * (590 * u + 868 * v - 1495 * k), 590 * u + 868 * v - 1495 * k, ?_⟩
  omega

theorem exists_multiple_of_abs_greenNumerator_le {k u v : Int} (hu : -128 ≤ u ∧ u ≤ 127)
    (hv : -128 ≤ v ∧ v ≤ 127) (h : |greenNumerator k u v| ≤ 280) :
    ∃ t : Int, u = 103 * t ∧ v = 85 * t ∧ greenNumerator k u v = -280 * t := by
  obtain ⟨t, e, rfl, rfl, rfl⟩ := exists_coordinates_of_plane (plane_of_abs_greenNumerator_le hu hv h)
  have he : e = -1 ∨ e = 0 ∨ e = 1 := by omega
  rcases he with rfl | rfl | rfl
  · omega
  · exact ⟨t, by ring, by ring, by rw [greenNumerator]; ring⟩
  · omega

theorem le_abs_greenNumerator {u v : Int} (hu : -128 ≤ u ∧ u ≤ 127) (hv : -128 ≤ v ∧ v ≤ 127)
    (h0 : ¬(u = 0 ∧ v = 0)) (k : Int) : 280 ≤ |greenNumerator k u v| := by
  by_contra hlt
  obtain ⟨t, htu, htv, hnum⟩ := exists_multiple_of_abs_greenNumerator_le (k := k) hu hv (by omega)
  rw [hnum, le_abs] at hlt
  omega

theorem eq_of_abs_greenNumerator_eq {k u v : Int} (hu : -128 ≤ u ∧ u ≤ 127) (hv : -128 ≤ v ∧ v ≤ 127)
    (h : |greenNumerator k u v| = 280) :
    (u = 103 ∧ v = 85 ∧ greenNumerator k u v < 0) ∨ (u = -103 ∧ v = -85 ∧ 0 < greenNumerator k u v) := by
  obtain ⟨t, htu, htv, hnum⟩ := exists_multiple_of_abs_greenNumerator_le hu hv h.le
  rw [hnum, abs_eq (by norm_num)] at h
  omega

theorem channelG_distance (yv : Byte) {u v : BitVec 8} (h0 : ¬(u.toInt = 0 ∧ v.toInt = 0)) (n : Int) :
    280 / 39349545 ≤ |channelG yv u v - n| := by
  have hnum := le_abs_greenNumerator (toInt_byte_bounds u) (toInt_byte_bounds v) h0 (yv.toNat - n)
  rw [channelG_sub_intCast, abs_div, Nat.abs_ofNat]
  exact div_le_div_of_nonneg_right (mod_cast hnum) (by norm_num)

theorem channelG_lt_intCast_iff (yv : Byte) (u v : BitVec 8) (n : Int) :
    channelG yv u v < n ↔ greenNumerator (yv.toNat - n) u.toInt v.toInt < 0 := by
  rw [← sub_neg, channelG_sub_intCast, div_lt_iff₀ (by norm_num), zero_mul, Int.cast_lt_zero]

theorem intCast_lt_channelG_iff (yv : Byte) (u v : BitVec 8) (n : Int) :
    n < channelG yv u v ↔ 0 < greenNumerator (yv.toNat - n) u.toInt v.toInt := by
  rw [← sub_pos, channelG_sub_intCast, div_pos_iff_of_pos_right (by norm_num), Int.cast_pos]

theorem eq_of_channelG_distance_eq {yv : Byte} {u v : BitVec 8} {n : Int}
    (h : |channelG yv u v - n| = 280 / 39349545) :
    (u.toInt = 103 ∧ v.toInt = 85 ∧ channelG yv u v < n) ∨
      (u.toInt = -103 ∧ v.toInt = -85 ∧ n < channelG yv u v) := by
  rw [channelG_sub_intCast, abs_div, Nat.abs_ofNat, div_left_inj' (by norm_num)] at h
  rw [channelG_lt_intCast_iff, intCast_lt_channelG_iff]
  exact eq_of_abs_greenNumerator_eq (toInt_byte_bounds u) (toInt_byte_bounds v) (mod_cast h)

/-! ## Micro-operations 7 to 9 -/

/-- Settles O26: the value MAC_R writes is `channelR`. -/
theorem macRIsExact : Obligations.MacRIsExact := by
  refine ⟨rfl, fun s hb hp => ?_⟩
  obtain ⟨hlow, hhigh⟩ := channelR_bounds s.dp.yv s.dp.v
  refine ⟨channelR s.dp.yv s.dp.v, ?_, hlow, hhigh, channelR_distance _, s.microOp_of_enabled _ hb hp⟩
  rw [channelR, kRV, mul_div_assoc]

/-- Settles O27: the value MAC_G writes is `channelG`. -/
theorem macGIsExact : Obligations.MacGIsExact := by
  refine ⟨rfl, fun s hb hp => ?_⟩
  obtain ⟨hlow, hhigh⟩ := channelG_bounds s.dp.yv s.dp.u s.dp.v
  refine ⟨channelG s.dp.yv s.dp.u s.dp.v, ?_, ?_, hlow, hhigh, channelG_distance _,
    fun _ => eq_of_channelG_distance_eq, s.microOp_of_enabled _ hb hp⟩
  · rw [channelG, kGU, kGV, mul_div_assoc, mul_div_assoc]
  · rw [channelG, kGU, kGV]
    ring

/-- Settles O28: the value MAC_B writes is `channelB`. -/
theorem macBIsExact : Obligations.MacBIsExact := by
  refine ⟨rfl, fun s hb hp => ?_⟩
  obtain ⟨hlow, hhigh⟩ := channelB_bounds s.dp.yv s.dp.u
  refine ⟨channelB s.dp.yv s.dp.u, ?_, hlow, hhigh, channelB_distance _, s.microOp_of_enabled _ hb hp⟩
  rw [channelB, kBU, mul_div_assoc]

/-! ## Truncation and the clamp -/

theorem truncRat_of_nonneg {r : Rat} (h : 0 ≤ r) : truncRat r = ⌊r⌋ := by
  rw [truncRat, Rat.floor_def', Int.tdiv_eq_ediv_of_nonneg (Rat.num_nonneg.mpr h)]

theorem truncRat_neg (r : Rat) : truncRat (-r) = -truncRat r := by
  rw [truncRat, truncRat, Rat.num_neg_eq_neg_num, Rat.den_neg_eq_den, Int.neg_tdiv]

theorem truncRat_of_nonpos {r : Rat} (h : r ≤ 0) : truncRat r = ⌈r⌉ := by
  rw [← neg_neg r, truncRat_neg, truncRat_of_nonneg (neg_nonneg.mpr h), Int.ceil_neg]

theorem clampChannel_of_nonpos {i : Int} (h : i ≤ 0) : clampChannel i = 0 := by
  rcases h.lt_or_eq with hneg | rfl
  · exact if_pos hneg
  · rfl

/-- Below zero, where dropping the fraction and rounding down differ, both are clamped to 0 (R172). -/
theorem clampChannel_truncRat (r : Rat) : clampChannel (truncRat r) = clampChannel ⌊r⌋ := by
  rcases le_total 0 r with h | h
  · rw [truncRat_of_nonneg h]
  · have hceil : ⌈r⌉ ≤ 0 := Int.ceil_le.mpr (by simpa using h)
    rw [truncRat_of_nonpos h, clampChannel_of_nonpos hceil, clampChannel_of_nonpos (Int.floor_nonpos h)]

/-! ## The offset form

`Yv` is an integer, so that rounding a channel down rounds its chroma terms only (R159). -/

theorem floor_channelR (yv : Byte) (v : BitVec 8) : ⌊channelR yv v⌋ = yv.toNat + offsetR v.toInt := by
  have hoffset : (v.toInt : Rat) * kRV = ((v.toInt * 701 : Int) : Rat) / (615 : Nat) := by
    rw [kRV]
    push_cast
    ring
  rw [channelR, hoffset, Int.floor_natCast_add, Rat.floor_intCast_div_natCast]
  rfl

theorem floor_channelG (yv : Byte) (u v : BitVec 8) :
    ⌊channelG yv u v⌋ = yv.toNat + offsetG u.toInt v.toInt := by
  have hoffset : -((u.toInt : Rat) * kGU) - (v.toInt : Rat) * kGV =
      ((-(u.toInt * 15529365 + v.toInt * 22846291) : Int) : Rat) / (39349545 : Nat) := by
    rw [kGU, kGV]
    push_cast
    ring
  rw [channelG, sub_eq_add_neg (yv.toNat : Rat), add_sub_assoc, hoffset, Int.floor_natCast_add,
    Rat.floor_intCast_div_natCast]
  rfl

theorem floor_channelB (yv : Byte) (u : BitVec 8) : ⌊channelB yv u⌋ = yv.toNat + offsetB u.toInt := by
  have hoffset : (u.toInt : Rat) * kBU = ((u.toInt * 443 : Int) : Rat) / (218 : Nat) := by
    rw [kBU]
    push_cast
    ring
  rw [channelB, hoffset, Int.floor_natCast_add, Rat.floor_intCast_div_natCast]
  rfl

theorem colourOf_eq_offsetForm (yv ub vb : Byte) :
    colourOf yv ub vb =
      { r := clampChannel (yv.toNat + offsetR (centre vb).toInt)
        g := clampChannel (yv.toNat + offsetG (centre ub).toInt (centre vb).toInt)
        b := clampChannel (yv.toNat + offsetB (centre ub).toInt) } := by
  rw [colourOf, clampChannel_truncRat, clampChannel_truncRat, clampChannel_truncRat, floor_channelR,
    floor_channelG, floor_channelB]

theorem offsetR_bounds {v : Int} (hv : -128 ≤ v ∧ v ≤ 127) : -146 ≤ offsetR v ∧ offsetR v ≤ 144 := by
  rw [offsetR]
  omega

theorem offsetG_bounds {u v : Int} (hu : -128 ≤ u ∧ u ≤ 127) (hv : -128 ≤ v ∧ v ≤ 127) :
    -124 ≤ offsetG u v ∧ offsetG u v ≤ 124 := by
  rw [offsetG]
  omega

theorem offsetB_bounds {u : Int} (hu : -128 ≤ u ∧ u ≤ 127) : -261 ≤ offsetB u ∧ offsetB u ≤ 258 := by
  rw [offsetB]
  omega

/-- Settles O58: the offset form at the centred chroma bytes. -/
theorem offsetFormGivesTheSamePixels : Obligations.OffsetFormGivesTheSamePixels := by
  intro yv ub vb
  have hu := toInt_byte_bounds (centre ub)
  have hv := toInt_byte_bounds (centre vb)
  rw [← toInt_centre ub, ← toInt_centre vb]
  exact ⟨colourOf_eq_offsetForm yv ub vb, offsetR_bounds hv, offsetG_bounds hu hv, offsetB_bounds hu⟩

end Sys2Proof.Machine
end

section
/-! PROOFS. Micro-operations 10 to 12, 14 and 15: truncation, the clamp, the pixel word, the pixel counter and the finish
step (43_clamp_store.md R170 to R173, R175, R176). -/

namespace Sys2Proof.Machine

/-! ## Truncation -/

/-- Truncation closes a range: from strictly between `a - 1` and `b + 1`, around 0, it leads into `a` to `b`. -/
theorem truncRat_bounds {r : Rat} {a b : Int} (ha : a ≤ 0) (hb : 0 ≤ b) (hlow : (a : Rat) - 1 < r)
    (hhigh : r < (b : Rat) + 1) : a ≤ truncRat r ∧ truncRat r ≤ b := by
  rcases le_total 0 r with h | h
  · rw [truncRat_of_nonneg h]
    have hfloor : ⌊r⌋ < b + 1 := Int.floor_lt.mpr (mod_cast hhigh)
    exact ⟨ha.trans (Int.floor_nonneg.mpr h), Int.le_of_lt_add_one hfloor⟩
  · rw [truncRat_of_nonpos h]
    have hceil : a - 1 < ⌈r⌉ := Int.lt_ceil.mpr (mod_cast hlow)
    exact ⟨Int.le_of_sub_one_lt hceil, (Int.ceil_le.mpr (mod_cast h)).trans hb⟩

/-- The values whose integer part fits the 11 signed bits of a lane. -/
def FitsLane (r : Rat) : Prop := -1025 < r ∧ r < 1024

theorem toInt_truncChannel {r : Rat} (h : FitsLane r) : (truncChannel r).toInt = truncRat r := by
  obtain ⟨hlow, hhigh⟩ := h
  obtain ⟨hmin, hmax⟩ : -1024 ≤ truncRat r ∧ truncRat r ≤ 1023 :=
    truncRat_bounds (by decide) (by decide) (by norm_num [hlow]) (by norm_num [hhigh])
  exact BitVec.toInt_ofInt_eq_self (by decide) hmin (Int.lt_add_one_of_le hmax)

theorem truncChannel_of_nonneg {r : Rat} (h : FitsLane r) (h0 : 0 ≤ r) :
    ((truncChannel r).toInt : Rat) ≤ r ∧ r < (truncChannel r).toInt + 1 := by
  rw [toInt_truncChannel h, truncRat_of_nonneg h0]
  exact ⟨Int.floor_le r, Int.lt_floor_add_one r⟩

theorem truncChannel_of_nonpos {r : Rat} (h : FitsLane r) (h0 : r ≤ 0) :
    r ≤ ((truncChannel r).toInt : Rat) ∧ ((truncChannel r).toInt : Rat) - 1 < r := by
  rw [toInt_truncChannel h, truncRat_of_nonpos h0]
  exact ⟨Int.le_ceil r, sub_lt_iff_lt_add.mpr (Int.ceil_lt_add_one r)⟩

/-- Where a range of values lies between two integers of a lane's 11 bits on either side of 0, its values fit the lane,
and the two integers bound their truncations. -/
theorem truncChannel_bounds {r low high : Rat} {a b : Int} (hr : low ≤ r ∧ r ≤ high) (ha : -1024 ≤ a ∧ a ≤ 0)
    (hb : 0 ≤ b ∧ b ≤ 1023) (hlow : (a : Rat) - 1 < low) (hhigh : high < (b : Rat) + 1) :
    (a ≤ (truncChannel r).toInt ∧ (truncChannel r).toInt ≤ b) ∧ FitsLane r := by
  have halow : (-1024 : Rat) ≤ a := mod_cast ha.1
  have hbhigh : (b : Rat) ≤ 1023 := mod_cast hb.2
  have hfits : FitsLane r := ⟨by linarith, by linarith⟩
  rw [toInt_truncChannel hfits]
  exact ⟨truncRat_bounds ha.2 hb.1 (hlow.trans_le hr.1) (hr.2.trans_lt hhigh), hfits⟩

theorem truncChannel_channelR (yv : Byte) (v : BitVec 8) :
    (-145 ≤ (truncChannel (channelR yv v)).toInt ∧ (truncChannel (channelR yv v)).toInt ≤ 399) ∧
      FitsLane (channelR yv v) :=
  truncChannel_bounds (channelR_bounds yv v) (by decide) (by decide) (by norm_num) (by norm_num)

theorem truncChannel_channelG (yv : Byte) (u v : BitVec 8) :
    (-123 ≤ (truncChannel (channelG yv u v)).toInt ∧ (truncChannel (channelG yv u v)).toInt ≤ 379) ∧
      FitsLane (channelG yv u v) :=
  truncChannel_bounds (channelG_bounds yv u v) (by decide) (by decide) (by norm_num) (by norm_num)

theorem truncChannel_channelB (yv : Byte) (u : BitVec 8) :
    (-260 ≤ (truncChannel (channelB yv u)).toInt ∧ (truncChannel (channelB yv u)).toInt ≤ 513) ∧
      FitsLane (channelB yv u) :=
  truncChannel_bounds (channelB_bounds yv u) (by decide) (by decide) (by norm_num) (by norm_num)

/-- Settles O29: truncation is the floor from 0 up and the ceiling from 0 down, on each lane. -/
theorem truncDropsTheFractionTowardZero : Obligations.TruncDropsTheFractionTowardZero := by
  refine ⟨rfl, fun yv u v => ?_, fun s hb hp hr hg hbl => ?_⟩
  · obtain ⟨hr, hfr⟩ := truncChannel_channelR yv v
    obtain ⟨hg, hfg⟩ := truncChannel_channelG yv u v
    obtain ⟨hbl, hfb⟩ := truncChannel_channelB yv u
    exact ⟨hr, hg, hbl, hfr, hfg, hfb⟩
  · exact ⟨truncChannel s.dp.rv, truncChannel s.dp.gv, truncChannel s.dp.bv,
      truncChannel_of_nonneg hr, truncChannel_of_nonpos hr, truncChannel_of_nonneg hg, truncChannel_of_nonpos hg,
      truncChannel_of_nonneg hbl, truncChannel_of_nonpos hbl, s.microOp_of_enabled _ hb hp⟩

/-! ## The clamp -/

theorem toNat_clampChannel (i : Int) :
    ((clampChannel i).toNat : Int) = if i < 0 then 0 else if i > 255 then 255 else i := by
  unfold clampChannel
  split
  · rfl
  · split
    · rfl
    · rw [BitVec.toNat_ofInt]
      omega

/-- Settles O30: the clamp of each lane, at the lane's value. -/
theorem clampSaturates : Obligations.ClampSaturates := by
  refine ⟨rfl, fun s hb hp => ?_⟩
  exact ⟨clampChannel s.dp.ri.toInt, clampChannel s.dp.gi.toInt, clampChannel s.dp.bi.toInt,
    toNat_clampChannel _, toNat_clampChannel _, toNat_clampChannel _, s.microOp_of_enabled _ hb hp⟩

/-- Clamping the rational and then dropping its fraction is clamping its floor (R172). -/
theorem toNat_clampChannel_floor (r : Rat) :
    ((clampChannel ⌊r⌋).toNat : Int) = truncRat (if r < 0 then 0 else if 255 < r then 255 else r) := by
  rcases lt_or_ge r 0 with hneg | hnonneg
  · rw [if_pos hneg, clampChannel_of_nonpos (Int.floor_nonpos hneg.le)]
    rfl
  · rw [if_neg (not_lt.mpr hnonneg), toNat_clampChannel]
    have h0 : 0 ≤ ⌊r⌋ := Int.floor_nonneg.mpr hnonneg
    rcases lt_or_ge 255 r with hbig | hle
    · have h255 : 255 ≤ ⌊r⌋ := Int.le_floor.mpr (mod_cast hbig.le)
      have htrunc : truncRat 255 = 255 := rfl
      rw [if_pos hbig, htrunc]
      omega
    · have h255 : ⌊r⌋ ≤ 255 := mod_cast (Int.floor_le r).trans hle
      rw [if_neg (not_lt.mpr hle), truncRat_of_nonneg hnonneg]
      omega

/-- Settles O57: from 0 up dropping the fraction is rounding down, and below 0 both clamp to 0; the sample's colour comes
from the offset form, its rounded channels by evaluation. -/
theorem clampOfTruncIsClampOfFloor : Obligations.ClampOfTruncIsClampOfFloor := by
  have hsample : colourOf 81 90 240 = { r := 208, g := 30, b := 3 } := by
    rw [colourOf_eq_offsetForm]
    decide
  refine ⟨fun r => ⟨clampChannel_truncRat r, ?_⟩, hsample, by decide +kernel⟩
  rw [clampChannel_truncRat, toNat_clampChannel_floor]

/-! ## The pixel word -/

/-- `toNat_append_byte` for words of every length: the lower word keeps its place, the upper one stands above it. -/
theorem toNat_append {m n : Nat} (hi : BitVec m) (lo : BitVec n) : (hi ++ lo).toNat = lo.toNat + 2 ^ n * hi.toNat := by
  rw [BitVec.toNat_append, Nat.shiftLeft_eq, Nat.mul_comm, ← Nat.two_pow_add_eq_or_of_lt lo.isLt, Nat.add_comm]

theorem toNat_packPixel (r g b : Byte) :
    (packPixel r g b).toNat = r.toNat + 256 * g.toNat + 65536 * b.toNat + 16777216 * 255 := by
  rw [packPixel, toNat_append, toNat_append, toNat_append]
  rfl

/-- Settles O31: the four appended bytes as one number. -/
theorem packPlacesTheChannels : Obligations.PackPlacesTheChannels := by
  refine ⟨rfl, fun s hb hp => ?_⟩
  exact ⟨packPixel s.dp.r8 s.dp.g8 s.dp.b8, toNat_packPixel _ _ _, s.microOp_of_enabled _ hb hp⟩

/-! ## The pixel counter and the finish step -/

/-- Settles O33: the frame has fewer than `2 ^ 30` pixels. -/
theorem advanceIncrementsTheCounter : Obligations.AdvanceIncrementsTheCounter := by
  refine ⟨rfl, fun s hb hp hw hh => ?_⟩
  have hframe := frame_lt_of_le hw hh
  have hinc : (s.p + 1).toNat = s.p.toNat + 1 := BitVec.toNat_add_of_lt (show s.p.toNat + 1 < 2 ^ 32 by omega)
  exact ⟨s.p + 1, hinc, by omega, s.microOp_of_enabled _ hb hp⟩

theorem State.finishEnabled_of_exec_eq_next {s t : State} (h : exec .finish s = .next t) : s.finishEnabled = true := by
  cases effect_of_exec_eq_next h with
  | datapath dp hi => exact absurd hi (by decide)
  | finish hp => exact hp

/-- Settles O34: the guard of FINISH is its enabling condition. -/
theorem finishReportsDone : Obligations.FinishReportsDone := by
  refine ⟨rfl, fun s hb hp => ?_, fun s t h => ?_⟩
  · exact if_pos (s.finishEnabled_iff.mpr ⟨hb, hp⟩)
  · exact s.finishEnabled_iff.mp (State.finishEnabled_of_exec_eq_next h)

end Sys2Proof.Machine
end

section
/-! PROOFS. The exception entry (60_exceptions.md R196). -/

namespace Sys2Proof.Machine

/-- Settles O15: the exception entry is the write of the three error registers followed by the write of STATE, and each
of the two is a record update of these fields alone. -/
theorem raiseErrorWritesTheErrorRegistersAndState : Obligations.RaiseErrorWritesTheErrorRegistersAndState := by
  intro s code actual expected
  calc s.raiseError code actual expected
    _ = (s.setErrors code actual expected).setStatus .error := rfl
    _ = { s with errCode := code, errActual := actual, errExpected := expected, status := .error } := rfl

end Sys2Proof.Machine
end

section
/-! PROOFS. The encoding: decode and encode are inverse to each other, and every word belongs to one row of the opcode
table (30_encoding.md R81, R83, R90). -/

namespace Sys2Proof.Machine

/-! ## Decode of encode -/

/-- The word index of a register whose offset exists (R81). -/
theorem exists_index_of_offset {offset : Nat} (h : (offsetAligned offset && offsetInRange offset) = true) :
    ∃ idx : Fin 8, offset = 4 * idx.val := by
  simp only [offsetAligned, offsetInRange, Bool.and_eq_true, decide_eq_true_eq] at h
  exact ⟨⟨offset / 4, by omega⟩, by simp only; omega⟩

theorem encode_rd (idx : Nat) : encode (.rd (4 * idx)) = .bus (BitVec.ofNat 4 idx) 0 := by
  rw [encode, Nat.mul_div_cancel_left _ (by norm_num)]

theorem encode_wr (idx : Nat) (data : Word) : encode (.wr (4 * idx) data) = .bus (BitVec.ofNat 4 (8 + idx)) data := by
  rw [encode, Nat.mul_div_cancel_left _ (by norm_num)]

/-- The command bits of a CTRL word are its number modulo 4. -/
theorem toNat_append_command_mod (r : BitVec 30) (c : BitVec 2) : (r ++ c).toNat % 4 = c.toNat := by
  have hc : c.toNat < 4 := c.isLt
  rw [Laws.toNat_append_command]
  omega

theorem extractLsb'_append_command (r : BitVec 30) (c : BitVec 2) : (r ++ c).extractLsb' 2 30 = r := by
  have hc : c.toNat < 4 := c.isLt
  refine BitVec.eq_of_toNat_eq ?_
  rw [toNat_reserved, Laws.toNat_append_command]
  omega

theorem toNat_start_bits (c : Bool) : (BitVec.ofBool c ++ 1#1).toNat = if c then 3 else 1 := by
  cases c <;> rfl

theorem decode_encode_start (clearBit : Bool) (r : BitVec 30) :
    decode (encode (.start clearBit r)) = .start clearBit r := by
  have hmod := toNat_append_command_mod r (BitVec.ofBool clearBit ++ 1#1)
  rw [toNat_start_bits] at hmod
  have hodd : (r ++ (BitVec.ofBool clearBit ++ 1#1)).toNat % 2 = 1 := by
    split at hmod <;> omega
  have hbit : (r ++ (BitVec.ofBool clearBit ++ 1#1)).getLsbD 1 = clearBit := by
    rw [Bool.eq_iff_iff, getLsbD_one_iff]
    split at hmod
    · next hc => exact iff_of_true (by omega) hc
    · next hc => exact iff_of_false (by omega) hc
  rw [encode, decode_ctrl_of_odd hodd, hbit, extractLsb'_append_command]

/-- Settles O1: the fields of the encoded word, format by format. A micro-operation has no operand, so that its line is
evaluated. -/
theorem decodeOfEncodeIsTheInstruction : Obligations.DecodeOfEncodeIsTheInstruction := by
  intro i hi
  cases i with
  | rd offset =>
    obtain ⟨idx, rfl⟩ := exists_index_of_offset hi
    rw [encode_rd]
    exact (busHeaderNamesTheAccessAndTheRegister.1 idx 0).1
  | wr offset data =>
    obtain ⟨idx, rfl⟩ := exists_index_of_offset hi
    rw [encode_wr]
    exact (busHeaderNamesTheAccessAndTheRegister.1 idx data).2
  | nop r => rw [encode, decode_ctrl_of_mod_four_eq_zero (toNat_append_command_mod r 0#2), extractLsb'_append_command]
  | start clearBit r => exact decode_encode_start clearBit r
  | clear r => rw [encode, decode_ctrl_of_mod_four_eq_two (toNat_append_command_mod r 2#2), extractLsb'_append_command]
  | xySplit | lumaAddr | lumaLd | chromaAddr | chromaLd | chromaSplit | center | macR | macG | macB | trunc | clamp
    | pack | pixSt | advance | finish => rfl

/-! ## Encode of decode -/

theorem offset_of_index_ok {idx : Nat} (h : idx < 8) :
    (offsetAligned (4 * idx) && offsetInRange (4 * idx)) = true := by
  simp only [offsetAligned, offsetInRange, Bool.and_eq_true, decide_eq_true_eq]
  omega

theorem wellFormed_decode_bus (header : BitVec 4) (data : Word) :
    (decode (.bus header data)).wellFormed = true := by
  have hok := offset_of_index_ok (header.extractLsb' 0 3).isLt
  cases hb : header.getLsbD 3 with
  | false => rw [decode_bus_of_read hb]; exact hok
  | true => rw [decode_bus_of_write hb]; exact hok

theorem wellFormed_decode (w : InstrWord) : (decode w).wellFormed = true := by
  cases w with
  | bus header data => exact wellFormed_decode_bus header data
  | ctrl data =>
    change (decodeCtrl data).wellFormed = true
    rcases decodeCtrl_cases data with ⟨c, r, hd⟩ | ⟨r, hd⟩ | ⟨r, hd⟩ <;> rw [hd] <;> rfl
  | uop k => revert k; decide

/-- A header is bit 3 and the word index below it (R81). -/
theorem header_eq : ∀ header : BitVec 4,
    (header.getLsbD 3 = false → header.toNat < 8 ∧ BitVec.ofNat 4 (header.extractLsb' 0 3).toNat = header) ∧
    (header.getLsbD 3 = true → 8 ≤ header.toNat ∧ BitVec.ofNat 4 (8 + (header.extractLsb' 0 3).toNat) = header) := by
  decide

theorem encode_decode_bus (header : BitVec 4) (data : Word) :
    encode (decode (.bus header data)) = .bus header (if header.toNat < 8 then 0 else data) := by
  obtain ⟨hread, hwrite⟩ := header_eq header
  cases hb : header.getLsbD 3 with
  | false =>
    obtain ⟨hlt, he⟩ := hread hb
    rw [decode_bus_of_read hb, if_pos hlt, encode_rd, he]
  | true =>
    obtain ⟨hge, he⟩ := hwrite hb
    rw [decode_bus_of_write hb, if_neg (Nat.not_lt.mpr hge), encode_wr, he]

/-- A CTRL word is its bits 31:2 followed by the two bits of its command. -/
theorem append_command_eq {d : Word} {c : BitVec 2} (h : d.toNat % 4 = c.toNat) : d.extractLsb' 2 30 ++ c = d := by
  refine BitVec.eq_of_toNat_eq ?_
  rw [Laws.toNat_append_command, toNat_reserved]
  omega

theorem encode_decode_ctrl (d : Word) : encode (decode (.ctrl d)) = .ctrl d := by
  have cover : d.toNat % 2 = 1 ∨ d.toNat % 4 = 2 ∨ d.toNat % 4 = 0 := by omega
  rcases cover with h | h | h
  · have hbits : d.toNat % 4 = (BitVec.ofBool (d.getLsbD 1) ++ 1#1).toNat := by
      have hbit := getLsbD_one_iff d
      rw [toNat_start_bits]
      split
      · next hc => have := hbit.mp hc; omega
      · next hc => have := mt hbit.mpr hc; omega
    rw [decode_ctrl_of_odd h, encode, append_command_eq hbits]
  · rw [decode_ctrl_of_mod_four_eq_two h, encode, append_command_eq h]
  · rw [decode_ctrl_of_mod_four_eq_zero h, encode, append_command_eq h]

/-- Settles O2: the word is put together again from the fields its format splits it in. -/
theorem encodeOfDecodeIsTheWord : Obligations.EncodeOfDecodeIsTheWord :=
  ⟨wellFormed_decode, encode_decode_bus, encode_decode_ctrl, by decide⟩

/-! ## The opcode table -/

/-- Settles O3: a bus word is in the row its bit 3 names, a CTRL word in the row of its two command bits, and each of
the sixteen ids has a row of its own. -/
theorem everyWordBelongsToItsRowAlone : Obligations.EveryWordBelongsToItsRowAlone := by
  intro w
  cases w with
  | bus header data =>
    rw [Laws.rowsOf_bus]
    cases hb : header.getLsbD 3 with
    | false => rw [decode_bus_of_read hb]; rfl
    | true => rw [decode_bus_of_write hb]; rfl
  | ctrl d =>
    have cover : d.toNat % 2 = 1 ∨ d.toNat % 4 = 2 ∨ d.toNat % 4 = 0 := by omega
    rw [Laws.rowsOf_ctrl]
    rcases cover with h | h | h
    · rw [decode_ctrl_of_odd h, if_pos h]; rfl
    · rw [decode_ctrl_of_mod_four_eq_two h, if_neg (by omega), if_pos h]; rfl
    · rw [decode_ctrl_of_mod_four_eq_zero h, if_neg (by omega), if_neg (by omega)]; rfl
  | uop k => revert k; decide

/-- Settles O7: every conjunct is the decoder's line for one written-out word. -/
theorem writtenOutWordsDecode : Obligations.WrittenOutWordsDecode :=
  ⟨rfl, rfl, rfl, rfl, rfl, rfl, rfl, rfl, rfl, rfl, rfl, rfl, by decide, rfl⟩

end Sys2Proof.Machine
end

section
/-! PROOFS. START in its four cases, which register accesses exist, and what a host access to REG can do, said once over
the words of formats BUS and CTRL (10_state.md R21; 40_command.md R111, R115, R116; 60_exceptions.md R191, R197). -/

namespace Sys2Proof.Machine

/-! ## Which accesses exist -/

theorem hostRegAt_eq_none_iff (offset : Nat) : hostRegAt offset = none ↔ ¬(offset % 4 = 0 ∧ offset ≤ 0x1C) := by
  by_cases h : offset ≤ 0x1C
  · interval_cases offset <;> decide
  · have hnone : hostRegAt offset = none := by
      unfold hostRegAt
      split <;> simp at h ⊢
    simp [hnone, h]

theorem exec_rd_of_none {offset : Nat} (hr : hostRegAt offset = none) (s : State) :
    exec (.rd offset) s = .refused .noSuchRegister := by
  simp only [exec, execRd, hr]

theorem exec_wr_of_none {offset : Nat} (hr : hostRegAt offset = none) (data : Word) (s : State) :
    exec (.wr offset data) s = .refused .noSuchRegister := by
  simp only [exec, execWr, hr]

/-- Settles O9: the offsets without a register are those that are no multiple of 4 up to 0x1C, and the access looks at
nothing else. -/
theorem accessIsRefusedExactlyAtOtherOffsets : Obligations.AccessIsRefusedExactlyAtOtherOffsets := by
  intro offset d s
  rw [← hostRegAt_eq_none_iff]
  refine ⟨fun hr => ⟨exec_rd_of_none hr s, exec_wr_of_none hr d s⟩, fun hok => ?_⟩
  obtain ⟨r, hr⟩ := Option.ne_none_iff_exists'.mp (fun hn => (hostRegAt_eq_none_iff offset).mp hn hok)
  exact ⟨⟨_, exec_rd_of_hostRegAt hr s⟩, ⟨_, exec_wr_of_hostRegAt hr d s⟩⟩

/-! ## START -/

theorem State.startCommand_of_busy {s : State} (hb : s.status = .busy) : s.startCommand = s := if_pos hb

theorem State.startCommand_of_not_sizePass {s : State} (hb : s.status ≠ .busy) (hd : s.dimsPass = true)
    (hs : s.sizePass = false) :
    s.startCommand = s.clearErrors.raiseError .sizeMismatch s.buflen
      (BitVec.ofNat 32 (expectedSize s.width.toNat s.height.toNat)) := by
  simpa [hb, hd, hs] using s.startCommand_cases

theorem State.startCommand_of_pass {s : State} (hb : s.status ≠ .busy) (hd : s.dimsPass = true)
    (hs : s.sizePass = true) : s.startCommand = s.clearErrors.beginConversion := by
  simpa [hb, hd, hs] using s.startCommand_cases

/-- Settles O13: START by its two checks; the expected size of a legal frame fits its register. -/
theorem startChecksAndBegins : Obligations.StartChecksAndBegins := by
  intro d s h
  rw [decode_ctrl_of_odd h, ← s.dimsPass_iff]
  refine ⟨⟨_, _, rfl⟩, fun hb => ?_, fun hb hd => ?_, fun hb hd => ⟨fun hs => ?_, fun hs => ?_⟩⟩
  · exact congrArg Host.Outcome.next (State.startCommand_of_busy hb)
  · exact congrArg Host.Outcome.next (State.startCommand_of_not_dimsPass hb (Bool.eq_false_iff.mpr hd))
  · have hfail : s.sizePass = false := Bool.eq_false_iff.mpr (fun hp => hs (s.sizePass_iff.mp hp))
    have hlt := expectedSize_lt le_rfl hd
    have hfits : expectedSize s.width.toNat s.height.toNat < 2 ^ 32 := by omega
    exact ⟨_, (BitVec.toNat_ofNat _ _).trans (Nat.mod_eq_of_lt hfits),
      congrArg Host.Outcome.next (State.startCommand_of_not_sizePass hb hd hfail)⟩
  · exact ⟨0, congrArg Host.Outcome.next (State.startCommand_of_pass hb hd (s.sizePass_iff.mpr hs))⟩

/-- START looks at no memory, and takes PG as it stands where it begins a conversion (R197; log entry 30). -/
theorem State.startCommand_memories (s : State) (fb : List Host.Cell) (pg : List (Nat × Word)) :
    State.startCommand { s with fb := fb, pg := pg } =
      { s.startCommand with
        fb := fb, pg := pg,
        pgBefore := if s.status ≠ .busy ∧ s.startCommand.status = .busy then pg else s.pgBefore } := by
  rcases s.startCommand_cases with ⟨hb, he⟩ | ⟨hb, hd, he⟩ | ⟨hb, hd, hs, he⟩ | ⟨hb, hd, hs, he⟩ <;> rw [he]
  · rw [if_neg (fun hn => hn.1 hb)]
    exact State.startCommand_of_busy hb
  · rw [if_neg (fun hn => nomatch hn.2)]
    exact State.startCommand_of_not_dimsPass hb hd
  · rw [if_neg (fun hn => nomatch hn.2)]
    exact State.startCommand_of_not_sizePass hb hd hs
  · rw [if_pos ⟨hb, rfl⟩]
    exact State.startCommand_of_pass hb hd hs

@[simp] theorem State.startCommand_fb (s : State) : s.startCommand.fb = s.fb := by
  rcases s.startCommand_cases with ⟨-, he⟩ | ⟨-, -, he⟩ | ⟨-, -, -, he⟩ | ⟨-, -, -, he⟩ <;> rw [he] <;> rfl

@[simp] theorem State.startCommand_pg (s : State) : s.startCommand.pg = s.pg := by
  rcases s.startCommand_cases with ⟨-, he⟩ | ⟨-, -, he⟩ | ⟨-, -, -, he⟩ | ⟨-, -, -, he⟩ <;> rw [he] <;> rfl

/-- Settles O16: in each of its four cases START leaves both memories, and its checks are on the registers. -/
theorem startTouchesNeitherMemory : Obligations.StartTouchesNeitherMemory := by
  intro c r s t h
  cases h
  exact ⟨s.startCommand_fb, s.startCommand_pg, fun fb pg => congrArg Host.Outcome.next (s.startCommand_memories fb pg)⟩

/-! ## What a host access to REG can do -/

/-- START, as a command or as a write to CTRL (R83, R116). -/
def IsStart (i : Instr) : Prop := (∃ c r, i = .start c r) ∨ ∃ d : Word, d.toNat % 2 = 1 ∧ i = .wr 0 d

/-- CLEAR, as a command or as a write to CTRL (R83, R116). -/
def IsClear (i : Instr) : Prop := (∃ r, i = .clear r) ∨ ∃ d : Word, d.toNat % 4 = 2 ∧ i = .wr 0 d

/-- The states a host access to REG can go on to (`access_of_exec`). -/
inductive Access (s : State) (i : Instr) : State → Prop where
  | same : Access s i s
  | read (v : Word) : Access s i (s.setHostRead (some v))
  | configure (hb : s.status ≠ .busy) (w h n : Word) : Access s i { s with width := w, height := h, buflen := n }
  | start (hi : IsStart i) : Access s i s.startCommand
  | clear (hi : IsClear i) : Access s i s.clearCommand

theorem offset_of_ctrl {offset : Nat} (hr : hostRegAt offset = some .ctrl) : offset = 0 := by
  have hok : offset % 4 = 0 ∧ offset ≤ 0x1C := by
    by_contra hn
    rw [(hostRegAt_eq_none_iff offset).mpr hn] at hr
    cases hr
  obtain ⟨-, hle⟩ := hok
  revert hr
  interval_cases offset <;> decide

theorem access_of_writeReg {s : State} {offset : Nat} {r : HostReg} (data : Word) (hr : hostRegAt offset = some r) :
    Access s (.wr offset data) (s.writeReg r data) := by
  rcases s.writeReg_cases r data with ⟨hc, he⟩ | ⟨hb, -, he⟩ | ⟨hb, -, he⟩ | ⟨hb, -, he⟩ | he <;> rw [he]
  · subst hc
    obtain rfl := offset_of_ctrl hr
    rcases s.command_cases data with ⟨hd, he⟩ | ⟨hd, he⟩ | ⟨-, he⟩ <;> rw [he]
    · exact .start (.inr ⟨data, hd, rfl⟩)
    · exact .clear (.inr ⟨data, hd, rfl⟩)
    · exact .same
  · exact .configure hb data s.height s.buflen
  · exact .configure hb s.width data s.buflen
  · exact .configure hb s.width s.height data
  · exact .same

/-- The sixteen micro-operations. -/
def microOps : List Instr := datapathOps ++ [.pixSt, .advance, .finish]

theorem access_of_effect {s t : State} {i : Instr} (hi : i ∉ microOps) (h : Effect s i t) : Access s i t := by
  cases h with
  | read => exact .read _
  | write data hr => exact access_of_writeReg data hr
  | nop => exact .same
  | start c r => exact .start (.inl ⟨c, r, rfl⟩)
  | clear r => exact .clear (.inl ⟨r, rfl⟩)
  | datapath dp hdp => exact absurd (List.mem_append_left _ hdp) hi
  | store | advance | finish => exact absurd (by decide) hi

/-- A word of format BUS or CTRL is none of a micro-operation. -/
theorem decode_notMem_microOps {w : InstrWord} (hw : w.format ≠ .uop) : decode w ∉ microOps := by
  cases w with
  | bus header data =>
    cases hb : header.getLsbD 3 with
    | false => rw [decode_bus_of_read hb]; simp [microOps, datapathOps]
    | true => rw [decode_bus_of_write hb]; simp [microOps, datapathOps]
  | ctrl data =>
    rcases decodeCtrl_cases data with ⟨c, r, hd⟩ | ⟨r, hd⟩ | ⟨r, hd⟩ <;> simp [decode, hd, microOps, datapathOps]
  | uop k => exact absurd rfl hw

theorem access_of_exec {w : InstrWord} {s t : State} (hw : w.format ≠ .uop) (h : exec (decode w) s = .next t) :
    Access s (decode w) t :=
  access_of_effect (decode_notMem_microOps hw) (effect_of_exec_eq_next h)

/-! ## Who raises an error -/

/-- The registers R191 speaks of: STATE and the three error registers. -/
def State.errorState (s : State) : Status × ErrCode × Word × Word := (s.status, s.errCode, s.errActual, s.errExpected)

theorem errorState_of_access {s t : State} {i : Instr} (h : Access s i t) (ht : t.status = .error) :
    t.errorState = s.errorState ∨ (s.status ≠ .busy ∧ IsStart i) := by
  cases h with
  | same | read | configure => exact .inl rfl
  | start hi =>
    by_cases hb : s.status = .busy
    · exact .inl (by rw [State.startCommand_of_busy hb])
    · exact .inr ⟨hb, hi⟩
  | clear =>
    rcases s.clearCommand_cases with ⟨-, he⟩ | ⟨-, he⟩ <;> rw [he] at ht ⊢
    · cases ht
    · exact .inl rfl

theorem errorState_of_exec {s t : State} {i : Instr} (h : exec i s = .next t) (ht : t.status = .error) :
    t.errorState = s.errorState ∨ (s.status ≠ .busy ∧ IsStart i) := by
  have he := effect_of_exec_eq_next h
  by_cases hi : i ∈ microOps
  · cases he with
    | datapath | advance => exact .inl rfl
    | store => exact .inl (by simp [State.errorState])
    | finish => cases ht
    | read | write | nop | start | clear => simp [microOps, datapathOps] at hi
  · exact errorState_of_access (access_of_effect hi he) ht

/-- Settles O17: of the operations only START writes an error, and what does not write one leaves STATE in ERROR only
where it was there. -/
theorem errorsAreRaisedByStartAlone : Obligations.ErrorsAreRaisedByStartAlone := by
  intro i s t h ht
  refine (errorState_of_exec h ht).imp (fun he => ?_) id
  simp only [State.errorState, Prod.mk.injEq] at he
  obtain ⟨hst, hcode, hactual, hexpected⟩ := he
  exact ⟨hst ▸ ht, hcode, hactual, hexpected⟩

end Sys2Proof.Machine
end

section
/-! PROOFS. The sixteen micro-operations together: where each goes on, and the state it answers there (30_encoding.md
R90; 41_sample_fetch.md R130 to R136; 42_colour_matrix.md R151 to R153; 43_clamp_store.md R170 to R177). -/

namespace Sys2Proof.Machine

/-! ## The effect of a micro-operation -/

/-- The state a micro-operation leaves where it goes on (`exec_uop_eq_next_iff`). -/
def State.microEffect (s : State) : Instr → State
  | .xySplit => s.setDp { s.dp with x := s.pixelColumn, y := s.pixelRow }
  | .lumaAddr => s.setDp { s.dp with la := s.lumaAddress }
  | .lumaLd => s.setDp { s.dp with yv := s.frameByte s.dp.la.toNat }
  | .chromaAddr => s.setDp { s.dp with ci := s.chromaIndex, ca := s.chromaAddress }
  | .chromaLd => s.setDp { s.dp with cw := s.frameByte (s.dp.ca.toNat + 1) ++ s.frameByte s.dp.ca.toNat }
  | .chromaSplit => s.setDp { s.dp with ub := chromaU s.dp.cw, vb := chromaV s.dp.cw }
  | .center => s.setDp { s.dp with u := centre s.dp.ub, v := centre s.dp.vb }
  | .macR => s.setDp { s.dp with rv := channelR s.dp.yv s.dp.v }
  | .macG => s.setDp { s.dp with gv := channelG s.dp.yv s.dp.u s.dp.v }
  | .macB => s.setDp { s.dp with bv := channelB s.dp.yv s.dp.u }
  | .trunc => s.setDp
      { s.dp with ri := truncChannel s.dp.rv, gi := truncChannel s.dp.gv, bi := truncChannel s.dp.bv }
  | .clamp => s.setDp
      { s.dp with
        r8 := clampChannel s.dp.ri.toInt, g8 := clampChannel s.dp.gi.toInt, b8 := clampChannel s.dp.bi.toInt }
  | .pack => s.setDp { s.dp with pw := packPixel s.dp.r8 s.dp.g8 s.dp.b8 }
  | .pixSt => s.storePixel
  | .advance => s.setP (s.p + 1)
  | .finish => s.setStatus .done
  | _ => s

/-- An id is one of the sixteen (R90). -/
theorem uop_cases : ∀ k : BitVec 4,
    k = 0 ∨ k = 1 ∨ k = 2 ∨ k = 3 ∨ k = 4 ∨ k = 5 ∨ k = 6 ∨ k = 7 ∨ k = 8 ∨ k = 9 ∨ k = 10 ∨ k = 11 ∨ k = 12 ∨ k = 13 ∨
      k = 14 ∨ k = 15 := by
  decide

theorem uop_ne_fifteen_iff (k : BitVec 4) : k ≠ 15 ↔ k.toNat ≤ 14 := by
  revert k; decide

/-- A pixel step's micro-operation has its effect under the enabling condition of the pixel step (R177). -/
theorem exists_exec_eq_microOp {k : BitVec 4} (hk : k.toNat ≤ 14) (s : State) :
    ∃ o, exec (decode (.uop k)) s = s.microOp o := by
  rcases uop_cases k with
    rfl | rfl | rfl | rfl | rfl | rfl | rfl | rfl | rfl | rfl | rfl | rfl | rfl | rfl | rfl | rfl
  iterate 15 exact ⟨_, rfl⟩
  exact absurd hk (by decide)

theorem exec_uop_of_ready {k : BitVec 4} {s : State} (h : s.uopReady k = true) :
    exec (decode (.uop k)) s = .next (s.microEffect (decode (.uop k))) := by
  simp only [State.uopReady, Bool.and_eq_true, Bool.or_eq_true, decide_eq_true_eq] at h
  obtain ⟨⟨⟨he, hla⟩, hca⟩, hp⟩ := h
  by_cases h15 : k = 15
  · subst h15
    exact if_pos he
  · rw [if_neg h15, s.pixelEnabled_iff] at he
    obtain ⟨hb, hlt⟩ := he
    have enabled (o : Host.Outcome State Fault Refusal) : s.microOp o = o := s.microOp_of_enabled o hb hlt
    rcases uop_cases k with
      rfl | rfl | rfl | rfl | rfl | rfl | rfl | rfl | rfl | rfl | rfl | rfl | rfl | rfl | rfl | rfl
    iterate 2 exact enabled _
    · exact exec_lumaLd_of_enabled hb hlt (hla.resolve_left (by decide))
    · exact enabled _
    · exact exec_chromaLd_of_enabled hb hlt (hca.resolve_left (by decide))
    iterate 8 exact enabled _
    · exact (enabled _).trans (if_pos (hp.resolve_left (by decide)))
    · exact enabled _
    · exact absurd rfl h15

/-! ## Where a micro-operation stops -/

/-- Settles O35: the pixel step's micro-operations and FINISH by their enabling conditions, and the loads by the bound
of the frame buffer. -/
theorem microOperationsStopOutsideTheirStep : Obligations.MicroOperationsStopOutsideTheirStep := by
  refine ⟨fun k s hk hn => ?_, fun s hn => ?_, fun s hb hp => ⟨fun ha => ?_, fun ha => ?_⟩⟩
  · obtain ⟨o, ho⟩ := exists_exec_eq_microOp hk s
    rw [ho, s.microOp_of_not_enabled o hn]
  · exact if_neg (fun he => hn (s.finishEnabled_iff.mp he))
  · refine (s.microOp_of_enabled _ hb hp).trans ?_
    rw [s.memRead1_of_ge ha]
  · refine (s.microOp_of_enabled _ hb hp).trans ?_
    rw [s.memRead2_of_ge ha]

/-! ## The store -/

/-- `MemWrite` sets one entry (R56). -/
theorem State.gridEntry_memWrite (s : State) (i : Nat) (v : Word) (j : Nat) :
    (s.memWrite i v).gridEntry j = if j = i then some v else s.gridEntry j := by
  split
  · next hj => subst hj; exact Memory.read_write_same _ _ _
  · next hj => exact Memory.read_write_other _ _ hj

/-- A pixel step's store leaves every entry but `P` (R174). -/
theorem State.gridEntry_storePixel_of_ne (s : State) {i : Nat} (hi : i ≠ s.p.toNat) :
    s.storePixel.gridEntry i = s.gridEntry i := by
  rcases s.storePixel_cases with ⟨-, he⟩ | ⟨-, he⟩ <;> rw [he]
  rw [s.gridEntry_memWrite, if_neg hi]

theorem exec_pixSt_of_enabled {s : State} (hb : s.status = .busy) (hp : s.p.toNat < s.frameSize)
    (hg : s.p.toNat < pixelGridEnd) : exec .pixSt s = .next s.storePixel :=
  (s.microOp_of_enabled _ hb hp).trans (if_pos hg)

/-- Settles O32: PIX_ST stores the pixel word by `MemWrite` where entry `P` is not decided yet. -/
theorem pixelStoreWritesEntryP : Obligations.PixelStoreWritesEntryP := by
  refine ⟨fun s i v => ⟨?_, fun j hj => ?_⟩, rfl, fun s hb hp hg => ?_⟩
  · rw [s.gridEntry_memWrite, if_pos rfl]
  · rw [s.gridEntry_memWrite, if_neg hj]
  · rw [exec_pixSt_of_enabled hb hp hg]
    rcases s.storePixel_cases with ⟨hin, he⟩ | ⟨hout, he⟩ <;> rw [he]
    · exact ⟨fun hn => absurd hin hn, fun _ => rfl⟩
    · refine ⟨fun _ => ⟨Memory.write s.pg s.p.toNat s.dp.pw, ?_⟩, fun hin => absurd hin hout⟩
      exact ⟨Memory.read_write_same _ _ _, fun i hi => Memory.read_write_other _ _ hi, Memory.wf_write _ _, rfl⟩

/-- Byte `k` of entry `i` is at address `4i + k` (R66). -/
theorem State.gridByte_of_entry (s : State) (i : Nat) {k : Nat} (hk : k < 4) :
    s.gridByte (4 * i + k) = (s.gridEntry i).map (fun w => w.extractLsb' (8 * k) 8) := by
  have hdiv : (4 * i + k) / 4 = i := by omega
  have hmod : (4 * i + k) % 4 = k := by omega
  rw [State.gridByte, hdiv, hmod]

/-- The bytes of a pixel word, from bit 0 up (R88). -/
theorem packPixel_bytes (r g b : Byte) :
    (packPixel r g b).extractLsb' 0 8 = r ∧ (packPixel r g b).extractLsb' 8 8 = g ∧
      (packPixel r g b).extractLsb' 16 8 = b ∧ (packPixel r g b).extractLsb' 24 8 = 0xFF := by
  have hr := r.isLt
  have hg := g.isLt
  have hb := b.isLt
  refine ⟨?_, ?_, ?_, ?_⟩ <;> apply BitVec.eq_of_toNat_eq <;>
    rw [BitVec.extractLsb'_toNat, toNat_packPixel, Nat.shiftRight_eq_div_pow]
  · omega
  · omega
  · omega
  · change _ = 255
    omega

/-- Settles O39: the four bytes of the entry written are those of its word, and every other address is in another
entry. -/
theorem pixelBytesAreRedGreenBlueAlpha : Obligations.PixelBytesAreRedGreenBlueAlpha := by
  intro s i r g b
  obtain ⟨hr, hg, hb, ha⟩ := packPixel_bytes r g b
  have written {k : Nat} (hk : k < 4) :
      (s.memWrite i (packPixel r g b)).gridByte (4 * i + k) = some ((packPixel r g b).extractLsb' (8 * k) 8) := by
    rw [State.gridByte_of_entry _ _ hk, s.gridEntry_memWrite, if_pos rfl]
    rfl
  refine ⟨?_, ?_, ?_, ?_, fun a hout => ?_⟩
  · exact (written (k := 0) (by decide)).trans (congrArg some hr)
  · exact (written (k := 1) (by decide)).trans (congrArg some hg)
  · exact (written (k := 2) (by decide)).trans (congrArg some hb)
  · exact (written (k := 3) (by decide)).trans (congrArg some ha)
  · have hother : a / 4 ≠ i := by omega
    rw [State.gridByte, s.gridEntry_memWrite, if_neg hother]
    rfl

end Sys2Proof.Machine
end

section
/-! PROOFS. The function of the block: the bytes a pixel does not depend on, neutral chroma, and the fixed-point
datapath (20_memory.md R53; 42_colour_matrix.md R158; 90_conflicts.md C1). -/

namespace Sys2Proof.Machine

/-! ## The bytes a pixel reads -/

theorem pixelAt_congr_bytes {f g : Nat → Byte} {w h x y : Nat}
    (hl : f (lumaAddressAt w x y) = g (lumaAddressAt w x y))
    (hu : f (chromaAddressAt w h x y) = g (chromaAddressAt w h x y))
    (hv : f (chromaAddressAt w h x y + 1) = g (chromaAddressAt w h x y + 1)) :
    pixelAt f w h x y = pixelAt g w h x y := by
  simp only [pixelAt, hl, hu, hv]

/-- The chroma word of a pixel is at an even column of row `y / 4` of the chroma plane (R53, R133). -/
theorem chromaAddressAt_eq (w h x y : Nat) : chromaAddressAt w h x y = w * h + 2 * w * (y / 4) + 2 * (x / 2) := by
  rw [chromaAddressAt, chromaIndexAt]
  ring

/-- Settles O55: the width is even, so that both bytes of the chroma word lie in the first `W` of their row. -/
theorem unreadChromaBytesDoNotMatter : Obligations.UnreadChromaBytesDoNotMatter := by
  intro w h x y f g hd hx hy hluma hchroma
  obtain ⟨-, -, hw2, hh4⟩ := (dimsOk_iff _ _ _).mp hd
  have hrow : y / 4 < h / 4 := by omega
  have hodd : w * h + 2 * w * (y / 4) + 2 * (x / 2) + 1 = w * h + 2 * w * (y / 4) + (2 * (x / 2) + 1) := rfl
  refine pixelAt_congr_bytes (hluma _ (lumaAddressAt_lt hx hy)) ?_ ?_ <;> rw [chromaAddressAt_eq]
  · exact hchroma _ _ hrow (by omega)
  · rw [hodd]
    exact hchroma _ _ hrow (by omega)

/-! ## Neutral chroma -/

theorem clampChannel_toNat (b : Byte) : clampChannel b.toNat = b := by
  have hlt : b.toNat < 256 := b.isLt
  refine BitVec.eq_of_toNat_eq (Int.natCast_inj.mp ?_)
  rw [toNat_clampChannel]
  omega

/-- Settles O60: by the offset form, whose offsets are 0 at the chroma byte 128. -/
theorem neutralChromaIsByte128 : Obligations.NeutralChromaIsByte128 := by
  refine ⟨fun yv => ?_, fun w h x y => ?_⟩
  · have hu : (centre 0x80).toInt = 0 := rfl
    have hr : offsetR 0 = 0 := rfl
    have hg : offsetG 0 0 = 0 := rfl
    have hb : offsetB 0 = 0 := rfl
    rw [colourOf_eq_offsetForm, hu, hr, hg, hb, Int.add_zero, clampChannel_toNat]
  · rw [pixelAt, colourOf_eq_offsetForm]
    decide

/-! ## The fixed-point datapath

A coefficient of R158 is the exact one times `2 ^ 21`, rounded. The rounding errors of the coefficients move an
accumulator by less than the least distance of the exact channel from an integer, so that no floor changes. -/

/-- Two quotients have the same floor where `A / F` is `N / D` but for an error that does not reach past either of the
integers around `N / D`. -/
theorem ediv_eq_ediv_of_error {F D A N e : Int} (hF : 0 < F) (hD : 0 < D) (h : D * A = F * N - e)
    (hlow : e ≤ F * (N % D)) (hhigh : F * (N % D - D) < e) : A / F = N / D := by
  have hquotient : D * (N / D) = N - N % D := eq_sub_of_add_eq (Int.mul_ediv_add_emod N D)
  have hscaled : D * (N / D * F) = F * (N - N % D) := by
    rw [← hquotient]
    ring
  rw [Int.ediv_eq_iff_of_pos hF]
  constructor
  · refine Int.le_of_mul_le_mul_left ?_ hD
    linarith
  · refine Int.lt_of_mul_lt_mul_left ?_ hD.le
    linarith

theorem fixed_offsetR {v : Int} (hv : -128 ≤ v ∧ v ≤ 127) : v * 2390412 / 2097152 = offsetR v := by
  have hr : v = 0 ∨ 0 < v * 701 % 615 := by omega
  refine ediv_eq_ediv_of_error (e := v * 172) (by decide) (by decide) (by ring) ?_ ?_ <;> omega

theorem fixed_offsetB {u : Int} (hu : -128 ≤ u ∧ u ≤ 127) : u * 4261644 / 2097152 = offsetB u := by
  have hr : u = 0 ∨ 0 < u * 443 % 218 := by omega
  refine ediv_eq_ediv_of_error (e := u * -56) (by decide) (by decide) (by ring) ?_ ?_ <;> omega

/-- What the rounding of `cGU` and `cGV` adds to the green numerator, times `2 ^ 21`. -/
def greenError (u v : Int) : Int := u * 15303045 + v * 18526948

/-- (103, 85, 90), (-46, 157, 73) and (-43, -50, -46) are a basis of the integer points; the first two span the plane.
-/
theorem exists_coordinates (k u v : Int) :
    ∃ t e m : Int, u = 103 * t - 46 * e - 43 * m ∧ v = 85 * t + 157 * e - 50 * m ∧ k = 90 * t + 73 * e - 46 * m := by
  refine ⟨7 * u - 8 * k + 906 * (590 * u + 868 * v - 1495 * k) - 67 * (7925 * u + 11659 * v - 20081 * k),
    590 * u + 868 * v - 1495 * k, 7925 * u + 11659 * v - 20081 * k, ?_⟩
  omega

/-- Where the green channel lies past an integer, the rounding does not bring it back to that integer: a numerator small
enough for that is on the plane or next to it. -/
theorem greenError_lt {k u v : Int} (hu : -128 ≤ u ∧ u ≤ 128) (hv : -128 ≤ v ∧ v ≤ 128)
    (h : 0 < greenNumerator k u v) : greenError u v < 2097152 * greenNumerator k u v := by
  obtain ⟨t, e, m, rfl, rfl, rfl⟩ := exists_coordinates k u v
  rw [greenNumerator, greenError] at *
  by_contra hge
  have hm : m = -1 ∨ m = 0 := by omega
  have he : e = -1 ∨ e = 0 ∨ e = 1 := by omega
  rcases hm with rfl | rfl <;> rcases he with rfl | rfl | rfl <;> omega

theorem greenError_le {k u v : Int} (hu : -128 ≤ u ∧ u ≤ 127) (hv : -128 ≤ v ∧ v ≤ 127)
    (h : 0 ≤ greenNumerator k u v) : greenError u v ≤ 2097152 * greenNumerator k u v := by
  rcases h.lt_or_eq with hpos | hzero
  · exact (greenError_lt (by omega) (by omega) hpos).le
  · obtain ⟨t, htu, htv, hnum⟩ := exists_multiple_of_abs_greenNumerator_le (k := k) hu hv (by rw [← hzero]; decide)
    rw [greenError]
    omega

theorem fixed_offsetG {u v : Int} (hu : -128 ≤ u ∧ u ≤ 127) (hv : -128 ≤ v ∧ v ≤ 127) :
    (-(u * 827645) - v * 1217604) / 2097152 = offsetG u v := by
  obtain ⟨r, q, hr, hq⟩ : ∃ r q : Int, -(u * 15529365 + v * 22846291) % 39349545 = r ∧
      greenNumerator (-q) u v = r ∧ 0 ≤ r ∧ r < 39349545 := by
    refine ⟨_, -(u * 15529365 + v * 22846291) / 39349545, rfl, ?_⟩
    rw [greenNumerator]
    omega
  obtain ⟨hnum, hr0, hrD⟩ := hq
  have hlow := greenError_le hu hv (k := -q) (by omega)
  have hhigh := greenError_lt (k := q + 1) (u := -u) (v := -v) (by omega) (by omega)
  rw [greenNumerator, greenError] at *
  refine ediv_eq_ediv_of_error (e := greenError u v) (by decide) (by decide) ?_ ?_ ?_ <;> rw [greenError]
  · ring
  · omega
  · omega

/-! ## The accumulators -/

theorem lumaFixed_eq (yv : Byte) : lumaFixed yv = BitVec.ofInt 32 (yv.toNat * 2097152) := by
  have hpow : BitVec.ofInt 32 2097152 = BitVec.twoPow 32 fracBits := by decide
  rw [BitVec.ofInt_mul, BitVec.ofInt_natCast, BitVec.ofNat_toNat, hpow, ← BitVec.shiftLeft_eq_mul_twoPow, lumaFixed]

theorem ofInt_sub (a b : Int) : BitVec.ofInt 32 (a - b) = BitVec.ofInt 32 a - BitVec.ofInt 32 b := by
  rw [Int.sub_eq_add_neg, BitVec.ofInt_add, BitVec.ofInt_neg, BitVec.sub_eq_add_neg]

theorem accR_eq (yv : Byte) (v : BitVec 8) :
    accR yv v = BitVec.ofInt 32 (yv.toNat * 2097152 + v.toInt * 2390412) := by
  rw [BitVec.ofInt_add, ← lumaFixed_eq, BitVec.ofInt_mul]
  rfl

theorem accG_eq (yv : Byte) (u v : BitVec 8) :
    accG yv u v = BitVec.ofInt 32 (yv.toNat * 2097152 - u.toInt * 827645 - v.toInt * 1217604) := by
  rw [ofInt_sub, ofInt_sub, ← lumaFixed_eq, BitVec.ofInt_mul, BitVec.ofInt_mul]
  rfl

theorem accB_eq (yv : Byte) (u : BitVec 8) :
    accB yv u = BitVec.ofInt 32 (yv.toNat * 2097152 + u.toInt * 4261644) := by
  rw [BitVec.ofInt_add, ← lumaFixed_eq, BitVec.ofInt_mul]
  rfl

/-- An accumulator that does not overflow, shifted right, is the luma byte and the floor of the rest (R158). -/
theorem fixedResult_ofInt {y a : Int} (hlow : -2 ^ 31 ≤ y * 2097152 + a) (hhigh : y * 2097152 + a < 2 ^ 31) :
    fixedResult (BitVec.ofInt 32 (y * 2097152 + a)) = y + a / 2097152 := by
  rw [fixedResult, BitVec.toInt_sshiftRight, BitVec.toInt_ofInt_eq_self (by decide) hlow hhigh,
    Int.shiftRight_eq_div_pow]
  have hpow : ((2 ^ fracBits : Nat) : Int) = 2097152 := rfl
  rw [hpow, Int.add_comm, Int.add_mul_ediv_right _ _ (by decide), Int.add_comm]

theorem fixedResult_accR (yv : Byte) (v : BitVec 8) : fixedResult (accR yv v) = yv.toNat + offsetR v.toInt := by
  have hy := yv.isLt
  have hv := toInt_byte_bounds v
  rw [accR_eq, fixedResult_ofInt (by omega) (by omega), fixed_offsetR hv]

theorem fixedResult_accG (yv : Byte) (u v : BitVec 8) :
    fixedResult (accG yv u v) = yv.toNat + offsetG u.toInt v.toInt := by
  have hy := yv.isLt
  have hu := toInt_byte_bounds u
  have hv := toInt_byte_bounds v
  have hsum : (yv.toNat : Int) * 2097152 - u.toInt * 827645 - v.toInt * 1217604 =
      yv.toNat * 2097152 + (-(u.toInt * 827645) - v.toInt * 1217604) := by ring
  rw [accG_eq, hsum, fixedResult_ofInt (by omega) (by omega), fixed_offsetG hu hv]

theorem fixedResult_accB (yv : Byte) (u : BitVec 8) : fixedResult (accB yv u) = yv.toNat + offsetB u.toInt := by
  have hy := yv.isLt
  have hu := toInt_byte_bounds u
  rw [accB_eq, fixedResult_ofInt (by omega) (by omega), fixed_offsetB hu]

/-- Settles O59: no accumulator overflows, and each channel's floor is that of the offset form, which gives the pixel.
-/
theorem fixedPointDatapathGivesTheSamePixels : Obligations.FixedPointDatapathGivesTheSamePixels := by
  intro yv ub vb
  rw [← toInt_centre ub, ← toInt_centre vb, fixedResult_accR, fixedResult_accG, fixedResult_accB]
  exact ⟨rfl, rfl, rfl, colourOf_eq_offsetForm yv ub vb⟩

end Sys2Proof.Machine
end

section
/-! PROOFS. What a step is, by what it fetches, and what the outside world's events do (20_memory.md R59, R64, R65;
43_clamp_store.md R179; 70_reset_and_hazards.md R220 to R222). -/

namespace Sys2Proof.Machine

/-! ## A host access or an event that stands first in the queue -/

theorem State.pixelStepOpen_eq_false_iff (s : State) :
    s.pixelStepOpen = false ↔ ¬(s.status = .busy ∧ s.uop ≠ 0 ∧ s.uop ≠ 15) := by
  rw [← s.pixelStepOpen_iff, Bool.not_eq_true]

@[simp] theorem retire_bus (header : BitVec 4) (data : Word) (o : Host.Outcome State Fault Refusal) :
    retire (.bus header data) o = o := by
  cases o <;> rfl

@[simp] theorem retire_ctrl (data : Word) (o : Host.Outcome State Fault Refusal) : retire (.ctrl data) o = o := by
  cases o <;> rfl

section
variable {s : State} {ms : List Move} (ho : s.pixelStepOpen = false)
include ho

theorem step_of_bus {header : BitVec 4} {data : Word} (hm : s.moves = .bus header data :: ms) :
    step s = exec (decode (.bus header data)) (s.setMoves ms) := by
  have hf := s.fetch_of_cons ho hm
  rw [step_of_word (by rw [hf]), hf, retire_bus]

theorem step_of_ctrl {data : Word} (hm : s.moves = .ctrl data :: ms) :
    step s = exec (decode (.ctrl data)) (s.setMoves ms) := by
  have hf := s.fetch_of_cons ho hm
  rw [step_of_word (by rw [hf]), hf, retire_ctrl]

theorem step_of_queued_event {e : HostEvent} (hm : s.moves = .event e :: ms) :
    step s = (s.setMoves ms).hostEvent e := by
  have hf := s.fetch_of_cons ho hm
  rw [step_of_event (by rw [hf]), hf]

/-- On CORE's turn between CORE steps the step is what STATE enables (R179, R180). -/
theorem fetch_of_coreTurnNext (hm : CoreTurnNext s ms) : s.fetch = (s.coreTurn, ms) := by
  rcases hm with ⟨he, rfl⟩ | hc
  · exact s.fetch_of_empty ho he
  · exact s.fetch_of_cons ho hc

end

/-- The bus write of a word to CTRL is the command of that word (R83, R116). -/
theorem exec_decode_bus_ctrl (d : Word) (s : State) : exec (decode (.bus 8 d)) s = exec (decode (.ctrl d)) s :=
  (writeReachesTheRegister.2 s d).1

/-- Settles O36: what stands first is fetched, and a host access leaves the selector alone. -/
theorem stepRunsTheHostAccess : Obligations.StepRunsTheHostAccess := by
  refine ⟨fun s h d ms hn hm => ?_, fun s d ms hn hm => ?_⟩ <;> rw [← s.pixelStepOpen_eq_false_iff] at hn
  · exact step_of_bus hn hm
  · have hbus : step { s with moves := .bus 8 d :: ms } = exec (decode (.bus 8 d)) (s.setMoves ms) :=
      step_of_bus (s := { s with moves := .bus 8 d :: ms }) hn rfl
    rw [hbus, exec_decode_bus_ctrl, step_of_ctrl hn hm]
    exact ⟨rfl, rfl⟩

/-! ## The selected micro-operation -/

theorem fetch_of_selected {s : State} {ms : List Move} (hb : s.status = .busy)
    (h : (s.uop ≠ 0 ∧ s.uop ≠ 15 ∧ ms = s.moves) ∨ ((s.uop = 0 ∨ s.uop = 15) ∧ CoreTurnNext s ms)) :
    s.fetch = (.word (.uop s.uop), ms) := by
  rcases h with ⟨h0, h15, rfl⟩ | ⟨hbound, hm⟩
  · exact s.fetch_of_open (s.pixelStepOpen_iff.mpr ⟨hb, h0, h15⟩)
  · have ho : s.pixelStepOpen = false := by
      rw [s.pixelStepOpen_eq_false_iff]
      exact fun hn => hbound.elim hn.2.1 hn.2.2
    rw [fetch_of_coreTurnNext ho hm, s.coreTurn_of_busy hb]

theorem State.nextUop_eq (s : State) (k : BitVec 4) :
    s.nextUop k = if k.toNat = 15 then 0 else if k.toNat = 14 then (if s.p.toNat < s.frameSize then 0 else 15)
      else k + 1 := by
  simp only [State.nextUop, ← BitVec.toNat_inj]
  rfl

/-- Settles O37: the selected micro-operation is fetched, its stop is the step's stop, and outside BUSY nothing is
enabled. -/
theorem stepRunsTheSelectedMicroOperationOrWaits : Obligations.StepRunsTheSelectedMicroOperationOrWaits := by
  refine ⟨fun s t ms hb h => ?_, fun s ms hb hm => ?_⟩
  · have hf := fetch_of_selected hb h
    have hstep : step s = retire (.uop s.uop) (exec (decode (.uop s.uop)) (s.setMoves ms)) := by
      rw [step_of_word (by rw [hf]), hf]
    rw [hstep]
    refine ⟨fun ht => ?_, fun f hfault => ?_⟩
    · change exec (decode (.uop s.uop)) (s.setMoves ms) = .next t at ht
      rw [ht, retire, State.afterWord_uop, State.nextUop_eq]
      rfl
    · change exec (decode (.uop s.uop)) (s.setMoves ms) = .fault f at hfault
      rw [hfault, retire]
  · have ho : s.pixelStepOpen = false := by
      rw [s.pixelStepOpen_eq_false_iff]
      exact fun hn => hb hn.1
    have hf : s.fetch = (.wait, ms) := by rw [fetch_of_coreTurnNext ho hm, s.coreTurn_of_not_busy hb]
    rw [step_of_wait (by rw [hf]), hf]
    rfl

/-! ## Host reads -/

theorem hostFbRead_of_lt {s : State} {addr : Nat} (h : addr < frameBufferEnd) :
    s.hostEvent (.fbRead addr) = .next (s.setHostRead (some ((s.frameByte addr).setWidth 32))) :=
  if_pos h

theorem hostPgRead_of_defined {s : State} {i : Nat} {w : Word} (hi : i < pixelGridEnd) (hb : s.status ≠ .busy)
    (hw : s.gridEntry i = some w) : s.hostEvent (.pgRead i) = .next (s.setHostRead (some w)) := by
  simp only [State.hostEvent, State.hostPgRead, if_pos hi, if_neg hb, hw]

theorem hostPgRead_of_undefined {s : State} {i : Nat} (hi : i < pixelGridEnd)
    (hn : s.status = .busy ∨ s.gridEntry i = none) : s.hostEvent (.pgRead i) = .next s.returnFree := by
  by_cases hb : s.status = .busy
  · simp only [State.hostEvent, State.hostPgRead, if_pos hi, if_pos hb]
  · simp only [State.hostEvent, State.hostPgRead, if_pos hi, if_neg hb, hn.resolve_left hb]

/-- A read of PG changes the value returned and the count of free values at most (R65, R221; log entry 7). -/
theorem exists_hostPgRead_eq {s : State} {i : Nat} (hi : i < pixelGridEnd) :
    ∃ (v : Word) (n : Nat), s.hostEvent (.pgRead i) = .next { s with hostRead := some v, draws := n } ∧
      (s.status ≠ .busy → ∀ w, s.gridEntry i = some w → v = w ∧ n = s.draws) := by
  by_cases hn : s.status = .busy ∨ s.gridEntry i = none
  · refine ⟨_, _, hostPgRead_of_undefined hi hn, fun hb w hw => ?_⟩
    rw [hn.resolve_left hb] at hw
    cases hw
  · obtain ⟨hb, hdefined⟩ := not_or.mp hn
    obtain ⟨w, hw⟩ := Option.ne_none_iff_exists'.mp hdefined
    refine ⟨w, s.draws, hostPgRead_of_defined hi hb hw, fun _ w' hw' => ⟨?_, rfl⟩⟩
    exact Option.some.inj (hw.symm.trans hw')

/-- Settles O41: the step is the read, at the state with the move taken off. -/
theorem hostReadOfTheGrid : Obligations.HostReadOfTheGrid := by
  intro s i ms hn hm hi
  rw [step_of_queued_event (s.pixelStepOpen_eq_false_iff.mpr hn) hm]
  exact exists_hostPgRead_eq (s := s.setMoves ms) hi

/-! ## Host writes -/

theorem hostFbWrite_of_le {s : State} {addr : Nat} {bytes : List Byte} (h : addr + bytes.length ≤ frameBufferEnd) :
    s.hostEvent (.fbWrite addr bytes) =
      .next (if s.status = .busy then s.raceOnFrame addr bytes else s.writeFrame addr bytes) :=
  if_pos h

theorem hostPgWrite_of_lt {s : State} {i : Nat} {v : Word} (h : i < pixelGridEnd) :
    s.hostEvent (.pgWrite i v) =
      .next (if s.status = .busy ∧ i < s.frameSize then s.raceOnGrid i v else s.memWrite i v) :=
  if_pos h

theorem State.mem_settled_raceOnFrame (s : State) (addr : Nat) (bytes : List Byte) (i : Nat) :
    i ∈ (s.raceOnFrame addr bytes).settled ↔
      i < s.frameSize ∧ (i ∈ s.settled ∨ (s.pixelDependsOn addr bytes.length i = true ∧ s.choice i = true)) :=
  State.mem_settle _ _ i

theorem State.mem_settled_raceOnGrid (s : State) (i : Nat) (v : Word) (j : Nat) :
    j ∈ (s.raceOnGrid i v).settled ↔ j < s.frameSize ∧ (j ∈ s.settled ∨ (j = i ∧ s.choice j = true)) := by
  refine (State.mem_settle _ _ j).trans ?_
  rw [decide_eq_true_iff]
  rfl

theorem State.pixelDependsOn_iff (s : State) (addr n i : Nat) :
    s.pixelDependsOn addr n i = true ↔ ∃ a, a ∈ s.pixelReads i ∧ addr ≤ a ∧ a < addr + n := by
  simp [State.pixelDependsOn]

/-- An entry the write to FB concerns, that is not decided yet (R64; log entries 9 and 30). -/
theorem State.raceOnFrame_of_dependent {s : State} {addr : Nat} {bytes : List Byte} {i : Nat} (hi : i < s.frameSize)
    (hs : i ∉ s.settled) (hd : s.pixelDependsOn addr bytes.length i = true) :
    (i ∈ (s.raceOnFrame addr bytes).settled ∧ (s.raceOnFrame addr bytes).gridEntry i = some (s.pixelWord i)) ∨
    (i ∉ (s.raceOnFrame addr bytes).settled ∧ (s.raceOnFrame addr bytes).gridEntry i =
      if i < s.p.toNat then some ((s.writeFrame addr bytes).pixelWord i) else s.gridEntry i) := by
  have hset : s.isSettled i = false := Bool.eq_false_iff.mpr (fun h => hs ((s.isSettled_iff i).mp h))
  rw [s.mem_settled_raceOnFrame, s.gridEntry_raceOnFrame, if_pos hi, State.entryAfterFbWrite, hset, hd]
  cases hc : s.choice i with
  | true => exact .inl ⟨⟨hi, .inr ⟨rfl, rfl⟩⟩, rfl⟩
  | false => exact .inr ⟨fun h => by simp [hs] at h, rfl⟩

/-- Every other entry (R64). -/
theorem State.raceOnFrame_of_independent {s : State} {addr : Nat} {bytes : List Byte} {i : Nat}
    (h : s.frameSize ≤ i ∨ i ∈ s.settled ∨ s.pixelDependsOn addr bytes.length i = false) :
    (s.raceOnFrame addr bytes).gridEntry i = s.gridEntry i ∧
      (i < s.frameSize → (i ∈ (s.raceOnFrame addr bytes).settled ↔ i ∈ s.settled)) := by
  rw [s.mem_settled_raceOnFrame, s.gridEntry_raceOnFrame]
  by_cases hi : i < s.frameSize
  · have hkept := h.resolve_left (Nat.not_le.mpr hi)
    have hguard : (s.isSettled i || !s.pixelDependsOn addr bytes.length i) = true := by
      rcases hkept with hs | hd
      · rw [(s.isSettled_iff i).mpr hs, Bool.true_or]
      · rw [hd, Bool.not_false, Bool.or_true]
    rw [if_pos hi, State.entryAfterFbWrite, if_pos hguard]
    rcases hkept with hs | hd
    · simp [hi, hs]
    · simp [hi, hd]
  · rw [if_neg hi]
    exact ⟨rfl, fun hlt => absurd hlt hi⟩

/-- Settles O40: the bytes by the laws of a memory, and in BUSY each entry by whether the write concerns it. -/
theorem hostWriteFillsTheFrameBuffer : Obligations.HostWriteFillsTheFrameBuffer := by
  intro s addr bytes ms hn hm hlen
  have hstep := (step_of_queued_event (s.pixelStepOpen_eq_false_iff.mpr hn) hm).trans (hostFbWrite_of_le hlen)
  refine ⟨Memory.writeList s.fb addr bytes, fun j hj => ?_, fun a ha => Memory.read_writeList_outside _ _ ha,
    Memory.wf_writeList _ _, fun hb => ?_, fun hb => ?_⟩
  · rw [Memory.read_writeList_inside _ _ _ hj, List.getElem?_eq_getElem hj]
  · exact hstep.trans (congrArg Host.Outcome.next (if_neg hb))
  · refine ⟨_, _, _, hstep.trans (congrArg Host.Outcome.next (if_pos hb)), fun i hi hs hd => ?_, fun i hi => ?_⟩
    · exact State.raceOnFrame_of_dependent (s := s.setMoves ms) hi hs ((s.pixelDependsOn_iff _ _ _).mpr hd)
    · refine State.raceOnFrame_of_independent (s := s.setMoves ms) (hi.imp id (Or.imp id fun hout => ?_))
      refine Bool.eq_false_iff.mpr (fun hd => ?_)
      obtain ⟨a, ha, hlow, hhigh⟩ := (s.pixelDependsOn_iff _ _ _).mp hd
      rcases hout a ha with h | h <;> omega

/-- A write to PG where no conversion fills the entry (R65). -/
theorem exists_hostPgWrite_eq {s : State} {i : Nat} (v : Word) (hi : i < pixelGridEnd)
    (hn : ¬(s.status = .busy ∧ i < s.frameSize)) :
    ∃ pg, s.hostEvent (.pgWrite i v) = .next { s with pg := pg } ∧
      Memory.read pg i = some v ∧ ∀ j, j ≠ i → Memory.read pg j = s.gridEntry j :=
  ⟨Memory.write s.pg i v, (hostPgWrite_of_lt hi).trans (congrArg Host.Outcome.next (if_neg hn)),
    Memory.read_write_same _ _ _, fun _ hj => Memory.read_write_other _ _ hj⟩

theorem State.stepIsBefore_iff (s : State) (hit : Nat → Bool) (i : Nat) :
    s.stepIsBefore hit i = true ↔ i ∈ s.settled ∨ (hit i = true ∧ s.choice i = true) := by
  simp [State.stepIsBefore, State.isSettled]

/-- The entry written in BUSY (R65; log entries 10 and 30). -/
theorem State.entryAfterPgWrite_of_settled {s : State} {i : Nat} {v : Word} (h : i ∈ (s.raceOnGrid i v).settled) :
    s.entryAfterPgWrite (fun j => decide (j = i)) i v = v :=
  if_pos ((s.stepIsBefore_iff _ _).mpr ((State.mem_settle s _ i).mp h).2)

theorem State.entryAfterPgWrite_of_not_settled {s : State} {i : Nat} {v : Word} (hi : i < s.frameSize)
    (h : i ∉ (s.raceOnGrid i v).settled) :
    s.entryAfterPgWrite (fun j => decide (j = i)) i v = if i < s.p.toNat then s.pixelWord i else v :=
  if_neg (fun hb => h ((State.mem_settle s _ i).mpr ⟨hi, (s.stepIsBefore_iff _ _).mp hb⟩))

/-- Settles O42: each event stops on its bound alone; a read by the rules of reads, and a write by where it falls. -/
theorem hostEventsStopOnMissingAddressesOnly : Obligations.HostEventsStopOnMissingAddressesOnly := by
  intro s
  refine ⟨fun addr bytes => ⟨fun h => ?_, fun h => ?_⟩, fun addr => ⟨fun h => ?_, fun h => ?_⟩,
    fun i => ⟨fun h => ?_, fun h => ?_⟩, fun i v => ⟨fun h => ?_, exists_hostPgWrite_eq v, fun hi h => ?_⟩⟩
  · exact if_neg (Nat.not_le.mpr h)
  · by_cases hb : s.status = .busy
    · exact ⟨_, _, _, _, (hostFbWrite_of_le h).trans (congrArg Host.Outcome.next (if_pos hb)),
        fun hn => absurd hb hn⟩
    · exact ⟨_, s.pg, s.settled, s.draws, (hostFbWrite_of_le h).trans (congrArg Host.Outcome.next (if_neg hb)),
        fun _ => ⟨rfl, rfl, rfl⟩⟩
  · exact ⟨_, s.frameByte addr, hostFbRead_of_lt h, BitVec.toNat_setWidth_of_le (by decide),
      fun c => s.frameByte_of_read⟩
  · exact if_neg (Nat.not_lt.mpr h)
  · obtain ⟨v, n, he, -⟩ := exists_hostPgRead_eq (s := s) h
    exact ⟨v, n, he⟩
  · exact if_neg (Nat.not_lt.mpr h)
  · exact if_neg (Nat.not_lt.mpr h)
  · have hother {j : Nat} (hji : j ≠ i) (hj : j < s.frameSize) :
        j ∈ (s.raceOnGrid i v).settled ↔ j ∈ s.settled := by
      rw [s.mem_settled_raceOnGrid]
      simp [hji, hj]
    exact ⟨_, _, _, _, _, (hostPgWrite_of_lt hi).trans (congrArg Host.Outcome.next (if_pos h)),
      Memory.read_write_same _ _ _, fun j hj => Memory.read_write_other _ _ hj,
      Memory.read_write_same _ _ _, fun j hj => Memory.read_write_other _ _ hj,
      State.entryAfterPgWrite_of_settled, State.entryAfterPgWrite_of_not_settled h.2,
      fun hs => (State.mem_settle _ _ _).mpr ⟨h.2, .inl hs⟩, fun j hji hj => hother hji hj⟩

/-! ## Reset -/

/-- An entry of an abandoned conversion that is not decided yet (R222, U8). -/
theorem State.entryAfterReset_of_not_settled {s : State} {i : Nat} (hs : i ∉ s.settled) :
    s.entryAfterReset i = Memory.read s.pgBefore i ∨ s.entryAfterReset i = some (s.pixelWord i) := by
  rw [State.entryAfterReset, if_neg (fun h => hs ((s.isSettled_iff i).mp h))]
  cases s.choice i with
  | true => exact .inr rfl
  | false => exact .inl rfl

/-- Settles O43: the reset state with the memories by the rule of an entry after reset. -/
theorem resetKeepsTheMemories : Obligations.ResetKeepsTheMemories := by
  intro s ms hn hm
  have hstep : step s = .next (s.setMoves ms).hostReset :=
    step_of_queued_event (s.pixelStepOpen_eq_false_iff.mpr hn) hm
  refine ⟨_, hstep, rfl, rfl, rfl, rfl, rfl, rfl, rfl, rfl, rfl, State.hostReset_pg_of_not_busy, fun hb i => ?_⟩
  rw [State.gridEntry_hostReset]
  refine ⟨fun hge => ?_, fun hlt => ?_⟩
  · exact if_neg (fun h => Nat.not_lt.mpr hge h.2)
  · rw [if_pos ⟨hb, hlt⟩]
    exact ⟨fun hs => if_pos ((s.isSettled_iff i).mpr hs), State.entryAfterReset_of_not_settled (s := s.setMoves ms)⟩

end Sys2Proof.Machine
end

section
/-! PROOFS. What a step can do when it goes on, said once, and the transitions of STATE (43_clamp_store.md R179). -/

namespace Sys2Proof.Machine

/-! ## The effect of a step -/

/-- The state with the step's move taken off the queue. -/
def State.taken (s : State) : State := s.setMoves s.fetch.2

/-- The states a step can go on to (`stepEffect_of_step`): the selected micro-operation in BUSY, a host access to REG or
another event between CORE steps, or waiting outside BUSY. -/
inductive StepEffect (s : State) : State → Prop where
  | microOp (hb : s.status = .busy) (hf : s.fetch.1 = .word (.uop s.uop)) {v : State}
      (hv : exec (decode (.uop s.uop)) s.taken = .next v) : StepEffect s (v.setUop (v.nextUop s.uop))
  | access (ho : s.pixelStepOpen = false) {w : InstrWord} {t : State} (hf : s.fetch.1 = .word w)
      (ha : Access s.taken (decode w) t) : StepEffect s t
  | event (ho : s.pixelStepOpen = false) {e : HostEvent} {t : State} (hf : s.fetch.1 = .event e)
      (he : s.taken.hostEvent e = .next t) : StepEffect s t
  | wait (hb : s.status ≠ .busy) : StepEffect s s.taken

theorem stepEffect_of_step {s t : State} (h : step s = .next t) : StepEffect s t := by
  rcases s.fetch_cases with ⟨hb, hf⟩ | ⟨ho, header, data, hf⟩ | ⟨ho, data, hf⟩ | ⟨ho, e, hf⟩ | ⟨hb, hf⟩
  · rw [step_of_word hf] at h
    obtain ⟨v, hv, rfl⟩ := retire_eq_next.mp h
    exact .microOp hb hf hv
  · rw [step_of_word hf, retire_bus] at h
    exact .access ho hf (access_of_exec nofun h)
  · rw [step_of_word hf, retire_ctrl] at h
    exact .access ho hf (access_of_exec nofun h)
  · rw [step_of_event hf] at h
    exact .event ho hf h
  · rw [step_of_wait hf] at h
    cases h
    exact .wait hb

/-- What a micro-operation can do when it goes on. -/
theorem microOp_cases {k : BitVec 4} {s v : State} (h : exec (decode (.uop k)) s = .next v) :
    (∃ dp, v = s.setDp dp) ∨ (v = s.storePixel ∧ s.p.toNat < pixelGridEnd) ∨ v = s.setP (s.p + 1) ∨
      (k = 15 ∧ s.finishEnabled = true ∧ v = s.setStatus .done) := by
  have hmem : ∀ k : BitVec 4, decode (.uop k) ∈ microOps := by decide
  have hfinish : ∀ k : BitVec 4, decode (.uop k) = .finish → k = 15 := by decide
  have hk := hmem k
  have hk15 := hfinish k
  generalize decode (.uop k) = i at h hk hk15
  cases effect_of_exec_eq_next h with
  | datapath dp => exact .inl ⟨dp, rfl⟩
  | store _ hg => exact .inr (.inl ⟨rfl, hg⟩)
  | advance => exact .inr (.inr (.inl rfl))
  | finish hp => exact .inr (.inr (.inr ⟨hk15 rfl, hp, rfl⟩))
  | read | write | nop | start | clear => simp [microOps, datapathOps] at hk

/-! ## The transitions of STATE -/

theorem status_of_microOp {k : BitVec 4} {s v : State} (h : exec (decode (.uop k)) s = .next v)
    (hne : v.status ≠ s.status) : k = 15 ∧ s.finishEnabled = true ∧ v.status = .done := by
  rcases microOp_cases h with ⟨dp, rfl⟩ | ⟨rfl, -⟩ | rfl | ⟨hk, hp, rfl⟩
  · exact absurd rfl hne
  · exact absurd s.storePixel_status hne
  · exact absurd rfl hne
  · exact ⟨hk, hp, rfl⟩

/-- START leaves STATE for BUSY or ERROR, by its two checks (R111). -/
theorem status_of_startCommand {s : State} (hne : s.startCommand.status ≠ s.status) :
    s.status ≠ .busy ∧
      ((s.startCommand.status = .busy ∧ s.startCommand.p = 0 ∧ s.dimsPass = true ∧ s.sizePass = true) ∨
        (s.startCommand.status = .error ∧ ¬(s.dimsPass = true ∧ s.sizePass = true))) := by
  rcases s.startCommand_cases with ⟨-, he⟩ | ⟨hb, hd, he⟩ | ⟨hb, -, hs, he⟩ | ⟨hb, hd, hs, he⟩ <;> rw [he] at hne ⊢
  · exact absurd rfl hne
  · exact ⟨hb, .inr ⟨rfl, by simp [hd]⟩⟩
  · exact ⟨hb, .inr ⟨rfl, by simp [hs]⟩⟩
  · exact ⟨hb, .inl ⟨rfl, rfl, hd, hs⟩⟩

theorem status_of_clearCommand {s : State} (hne : s.clearCommand.status ≠ s.status) :
    (s.status = .done ∨ s.status = .error) ∧ s.clearCommand.status = .idle := by
  rcases s.clearCommand_cases with ⟨hs, he⟩ | ⟨-, he⟩ <;> rw [he] at hne ⊢
  · exact ⟨hs, rfl⟩
  · exact absurd rfl hne

theorem status_of_hostEvent {s t : State} {e : HostEvent} (h : s.hostEvent e = .next t) (hne : t.status ≠ s.status) :
    e = .reset ∧ t.status = .idle := by
  rcases s.hostEvent_cases e t h with
    ⟨addr, bytes, -, -, ⟨-, rfl⟩ | ⟨-, rfl⟩⟩ | ⟨v, n, rfl, -⟩ | ⟨i, v, -, -, ⟨-, rfl⟩ | ⟨-, rfl⟩⟩ | ⟨he, rfl⟩
  case inr.inr.inr => exact ⟨he, rfl⟩
  all_goals exact absurd rfl hne

/-- Settles O51: of the four kinds of step, a micro-operation changes STATE by FINISH, a host access by START or
CLEAR, an event by reset, and waiting not at all. -/
theorem stateChangesOnlyByTheListedTransitions : Obligations.StateChangesOnlyByTheListedTransitions := by
  intro s t h hne
  cases stepEffect_of_step h with
  | microOp hb hf hv =>
    obtain ⟨hk, hp, hdone⟩ := status_of_microOp hv hne
    exact .inr (.inr (.inl ⟨hb, hk ▸ hf, (s.taken.finishEnabled_iff.mp hp).2, hdone⟩))
  | access ho hf ha =>
    cases ha with
    | same | read | configure => exact absurd rfl hne
    | start hi =>
      obtain ⟨hb, hcase⟩ := status_of_startCommand (s := s.taken) hne
      exact .inr (.inl ⟨hb, ⟨_, hf, hi⟩, hcase⟩)
    | clear hi =>
      obtain ⟨hs, hidle⟩ := status_of_clearCommand (s := s.taken) hne
      exact .inr (.inr (.inr ⟨hs, hidle, _, hf, hi⟩))
  | event ho hf he =>
    obtain ⟨rfl, hidle⟩ := status_of_hostEvent he hne
    exact .inl ⟨hf, hidle⟩
  | wait => exact absurd rfl hne

end Sys2Proof.Machine
end

section
/-! PROOFS. The invariant of every state a run reaches (10_state.md R27 to R29, R32, R33; 41_sample_fetch.md R130 to
R133). -/

namespace Sys2Proof.Machine

/-! ## Legal registers in BUSY -/

section
variable {s : State} (hl : ConversionLegal s) (hb : s.status = .busy)
include hl hb

theorem ConversionLegal.dims_le : s.width.toNat ≤ 32767 ∧ s.height.toNat ≤ 32767 := by
  obtain ⟨⟨-, hw⟩, ⟨-, hh⟩, -⟩ := s.dimsPass_iff.mp (hl hb).1
  exact ⟨hw, hh⟩

theorem ConversionLegal.frameSize_lt : s.frameSize < pixelGridEnd := by
  obtain ⟨hw, hh⟩ := hl.dims_le hb
  exact frame_lt_of_le hw hh

/-- The pixel step is enabled exactly where the finish step is not selected (R177, R179). -/
theorem ConversionLegal.p_lt_iff : s.p.toNat < s.frameSize ↔ s.uop ≠ 15 := by
  obtain ⟨-, -, hle, hfin⟩ := hl hb
  rw [ne_eq, hfin]
  omega

end

/-- The addresses of pixel `i` in a frame of legal dimensions lie in the buffer, and fit a register (R137, R138). -/
theorem addresses_lt_expectedSize {w h i : Nat} (hd : dimsOk 32767 w h = true) (hi : i < w * h) :
    lumaAddressAt w (i % w) (i / w) < expectedSize w h ∧
      chromaAddressAt w h (i % w) (i / w) + 1 < expectedSize w h ∧ expectedSize w h < 2 ^ 31 := by
  have h0 : 0 < w := Nat.pos_of_lt_mul_right hi
  obtain ⟨hla, hsize, -, -, -, -, -, -, -, -, -, -, -, -, -, hca, -, hbig, -⟩ :=
    addressesStayInsideTheBuffer w h (i % w) (i / w) hd (Nat.mod_lt _ h0) (Nat.div_lt_of_lt_mul hi)
  exact ⟨hla.trans_lt hsize, hca, hbig⟩

/-! ## No error, and no conversion -/

theorem errorsAgree_of_noError {s : State} (hst : s.status ≠ .error) (hcode : s.errCode = .noError)
    (hactual : s.errActual = 0) (hexpected : s.errExpected = 0) : ErrorsAgree s :=
  ⟨⟨fun hn => absurd hcode hn, fun hn => absurd hn hst⟩, fun _ => ⟨hactual, hexpected⟩⟩

/-- Outside ERROR no error is held (R28, R29). -/
theorem ErrorsAgree.of_busy {s : State} (h : ErrorsAgree s) (hb : s.status = .busy) :
    s.errCode = .noError ∧ s.errActual = 0 ∧ s.errExpected = 0 := by
  obtain ⟨hcode, hsize⟩ := h
  have hno : s.errCode = .noError := by
    by_contra hn
    rw [hcode.mp hn] at hb
    cases hb
  exact ⟨hno, hsize (by rw [hno]; decide)⟩

/-- Outside BUSY the invariant is of the memories and the error registers alone. -/
theorem inv_of_not_busy {s : State} (hm : MemoriesCanonical s) (he : ErrorsAgree s) (hb : s.status ≠ .busy) : Inv s :=
  ⟨hm, he, fun hn => absurd hn hb, fun hn => absurd hn hb⟩

/-! ## The address registers -/

/-- What the micro-operation before `n` leaves in an address register of the pixel step under way: `AddressesStaged`,
one micro-operation at a time (`addressesStaged_iff`). -/
def AddressStaged (s : State) : Nat → Prop
  | 1 => s.dp.x.toNat = s.p.toNat % s.width.toNat ∧ s.dp.y.toNat = s.p.toNat / s.width.toNat
  | 2 => s.dp.la.toNat = s.p.toNat
  | 4 => s.dp.ca.toNat = s.chromaAddressOfP
  | _ => True

theorem addressesStaged_iff (s : State) :
    AddressesStaged s ↔ (s.status = .busy → s.uop ≠ 15 → ∀ n, n ≤ s.uop.toNat → AddressStaged s n) := by
  constructor
  · intro h hb hu n hn
    obtain ⟨h1, h2, h4⟩ := h hb hu
    match n, hn with
    | 1, hn => exact h1 hn
    | 2, hn => exact h2 hn
    | 4, hn => exact h4 hn
    | 0, _ | 3, _ | _ + 5, _ => trivial
  · intro h hb hu
    exact ⟨h hb hu 1, h hb hu 2, h hb hu 4⟩

/-- An id is of a micro-operation on the datapath registers, of the store, of ADVANCE or of FINISH (R90). -/
theorem uop_kinds : ∀ k : BitVec 4, k.toNat < 13 ∨ k = 13 ∨ k = 14 ∨ k = 15 := by decide

theorem exists_microEffect_eq (s : State) {k : BitVec 4} (hk : k.toNat < 13) :
    ∃ dp, s.microEffect (decode (.uop k)) = s.setDp dp := by
  obtain ⟨⟨k, h16⟩⟩ := k
  change k < 13 at hk
  interval_cases k <;> exact ⟨_, rfl⟩

/-- A micro-operation leaves the address registers written before it. -/
theorem AddressStaged.keep {s : State} {k : BitVec 4} {n : Nat} (hk : k.toNat < 13) (hn : n ≤ k.toNat)
    (h : AddressStaged s n) : AddressStaged (s.microEffect (decode (.uop k))) n := by
  obtain ⟨⟨k, h16⟩⟩ := k
  change k < 13 at hk
  change n ≤ k at hn
  interval_cases k <;> interval_cases n <;> exact h

theorem addressStaged_lumaAddr {s : State} (h : AddressStaged s 1) : s.lumaAddress.toNat = s.p.toNat := by
  obtain ⟨hx, hy⟩ := h
  have hp : lumaAddressAt s.width.toNat s.dp.x.toNat s.dp.y.toNat = s.p.toNat := by
    rw [hx, hy, lumaAddressAt_mod_div]
  rw [State.toNat_lumaAddress (by omega), hp]

theorem addressStaged_chromaAddr {s : State} (h : AddressStaged s 1) (hfit : s.chromaAddressOfP < 2 ^ 32) :
    s.chromaAddress.toNat = s.chromaAddressOfP := by
  obtain ⟨hx, hy⟩ := h
  have hp : chromaAddressAt s.width.toNat s.height.toNat s.dp.x.toNat s.dp.y.toNat = s.chromaAddressOfP := by
    rw [hx, hy, State.chromaAddressOfP]
  rw [State.toNat_chromaAddress (by omega), hp]

/-- The address register a micro-operation writes holds its address of pixel `P` then. -/
theorem AddressStaged.next {s : State} {k : BitVec 4} (hk : k.toNat < 13) (hd : s.dimsPass = true)
    (hp : s.p.toNat < s.frameSize) (h : ∀ n, n ≤ k.toNat → AddressStaged s n) :
    AddressStaged (s.microEffect (decode (.uop k))) (k.toNat + 1) := by
  obtain ⟨⟨-, hw⟩, ⟨-, hh⟩, -⟩ := s.dimsPass_iff.mp hd
  obtain ⟨-, hca, hbig⟩ : _ ∧ s.chromaAddressOfP + 1 < _ ∧ _ := addresses_lt_expectedSize hd hp
  have h0 : 0 < s.width.toNat := Nat.pos_of_lt_mul_right hp
  obtain ⟨⟨k, h16⟩⟩ := k
  change k < 13 at hk
  interval_cases k
  · exact ⟨State.toNat_pixelColumn h0 hw, State.toNat_pixelRow hp hh⟩
  · exact addressStaged_lumaAddr (h 1 le_rfl)
  · trivial
  · exact addressStaged_chromaAddr (h 1 (show 1 ≤ 3 by decide)) (by omega)
  iterate 9 trivial

theorem AddressStaged.storePixel {s : State} {n : Nat} (h : AddressStaged s n) : AddressStaged s.storePixel n := by
  rcases s.storePixel_cases with ⟨-, he⟩ | ⟨-, he⟩ <;> rw [he] <;> exact h

theorem State.toNat_p_succ {s : State} (hp : s.p.toNat < s.frameSize) (hg : s.frameSize < pixelGridEnd) :
    (s.p + 1).toNat = s.p.toNat + 1 :=
  BitVec.toNat_add_of_lt (show s.p.toNat + 1 < 2 ^ 32 by rw [pixelGridEnd] at hg; omega)

/-! ## One micro-operation -/

/-- The state after the selected micro-operation (`step_eq_microStep`). -/
def State.microStep (s : State) : State :=
  (s.microEffect (decode (.uop s.uop))).setUop ((s.microEffect (decode (.uop s.uop))).nextUop s.uop)

theorem toNat_succ_of_lt {k : BitVec 4} (hk : k.toNat < 14) : (k + 1).toNat = k.toNat + 1 :=
  BitVec.toNat_add_of_lt (show k.toNat + 1 < 2 ^ 4 by omega)

theorem State.nextUop_of_lt (s : State) {k : BitVec 4} (hk : k.toNat < 14) : s.nextUop k = k + 1 := by
  rw [s.nextUop_eq, if_neg (by omega), if_neg (by omega)]

theorem State.microStep_of_lt {s : State} (hk : s.uop.toNat < 13) :
    s.microStep = (s.microEffect (decode (.uop s.uop))).setUop (s.uop + 1) := by
  rw [State.microStep, State.nextUop_of_lt _ (by omega)]

theorem State.microStep_of_store {s : State} (hk : s.uop = 13) : s.microStep = s.storePixel.setUop 14 := by
  rw [State.microStep, hk]
  rfl

theorem State.microStep_of_advance {s : State} (hk : s.uop = 14) :
    s.microStep = (s.setP (s.p + 1)).setUop (if (s.p + 1).toNat < s.frameSize then 0 else 15) := by
  rw [State.microStep, hk]
  rfl

theorem State.microStep_of_finish {s : State} (hk : s.uop = 15) : s.microStep = (s.setStatus .done).setUop 0 := by
  rw [State.microStep, hk]
  rfl

/-- In a state of the invariant the selected micro-operation is enabled and its accesses exist (R137, R138). -/
theorem uopReady_of_inv {s : State} (h : Inv s) (hb : s.status = .busy) : s.uopReady s.uop = true := by
  obtain ⟨-, -, hl, ha⟩ := h
  have hg := hl.frameSize_lt hb
  have hpe := hl.p_lt_iff hb
  obtain ⟨hd, hs, hle, hfin⟩ := hl hb
  rw [s.sizePass_iff] at hs
  rw [addressesStaged_iff] at ha
  simp only [State.uopReady, Bool.and_eq_true, Bool.or_eq_true, decide_eq_true_eq]
  by_cases h15 : s.uop = 15
  · rw [if_pos h15, s.finishEnabled_iff]
    exact ⟨⟨⟨⟨hb, hfin.mp h15⟩, .inl (by simp [h15])⟩, .inl (by simp [h15])⟩, .inl (by simp [h15])⟩
  · have hp := hpe.mpr h15
    obtain ⟨hla, hca, -⟩ : _ ∧ s.chromaAddressOfP + 1 < _ ∧ _ := addresses_lt_expectedSize hd hp
    rw [lumaAddressAt_mod_div] at hla
    rw [if_neg h15, s.pixelEnabled_iff]
    refine ⟨⟨⟨⟨hb, hp⟩, ?_⟩, ?_⟩, .inr (hp.trans hg)⟩
    · refine Decidable.or_iff_not_imp_left.mpr (fun h2 => ?_)
      have hk : s.uop = 2 := not_not.mp h2
      have hstaged : s.dp.la.toNat = s.p.toNat := ha hb h15 2 (by rw [hk]; decide)
      omega
    · refine Decidable.or_iff_not_imp_left.mpr (fun h4 => ?_)
      have hk : s.uop = 4 := not_not.mp h4
      have hstaged : s.dp.ca.toNat = s.chromaAddressOfP := ha hb h15 4 (by rw [hk]; decide)
      omega

theorem exec_uop_of_inv {s : State} (h : Inv s) (hb : s.status = .busy) :
    exec (decode (.uop s.uop)) s = .next (s.microEffect (decode (.uop s.uop))) :=
  exec_uop_of_ready (uopReady_of_inv h hb)

theorem step_eq_microStep {s : State} (h : Inv s) (hb : s.status = .busy) (hf : s.fetch.1 = .word (.uop s.uop)) :
    step s = .next s.taken.microStep := by
  have hexec : exec (decode (.uop s.uop)) s.taken = .next (s.taken.microEffect (decode (.uop s.uop))) :=
    exec_uop_of_inv (s := s.taken) h hb
  rw [step_of_word hf]
  change retire _ (exec _ s.taken) = _
  rw [hexec]
  rfl

/-! ## A micro-operation keeps the invariant -/

theorem memoriesCanonical_memWrite {s : State} {i : Nat} (v : Word) (hi : i < pixelGridEnd) (h : MemoriesCanonical s) :
    MemoriesCanonical (s.memWrite i v) := by
  obtain ⟨hfb, hpg, hfbk, hpgk, hbefore⟩ := h
  exact ⟨hfb, Memory.wf_write i v hpg, hfbk, Memory.keysBelow_write v hi hpgk, hbefore⟩

theorem inv_microStep_of_lt {s : State} (h : Inv s) (hb : s.status = .busy) (hk : s.uop.toNat < 13) :
    Inv s.microStep := by
  obtain ⟨hm, he, hl, ha⟩ := h
  have h15 : s.uop ≠ 15 := fun hn => by rw [hn] at hk; exact absurd hk (by decide)
  have hp := (hl.p_lt_iff hb).mpr h15
  obtain ⟨hd, hs, hle, -⟩ := hl hb
  have hsucc := toNat_succ_of_lt (k := s.uop) (by omega)
  have hnext : s.uop + 1 ≠ 15 := fun hn => by rw [hn] at hsucc; revert hsucc; simp; omega
  have hstaged := (addressesStaged_iff s).mp ha hb h15
  obtain ⟨dp, hdp⟩ := exists_microEffect_eq s hk
  rw [State.microStep_of_lt hk]
  refine ⟨?_, ?_, fun _ => ?_, (addressesStaged_iff _).mpr (fun _ _ n hn => ?_)⟩
  · rw [hdp]; exact hm
  · rw [hdp]; exact he
  · rw [hdp]; exact ⟨hd, hs, hle, fun hn => absurd hn hnext, fun hn => absurd hn hp.ne⟩
  · change n ≤ (s.uop + 1).toNat at hn
    rw [hsucc] at hn
    change AddressStaged (s.microEffect (decode (.uop s.uop))) n
    rcases Nat.lt_or_eq_of_le hn with hlt | rfl
    · exact .keep hk (Nat.le_of_lt_succ hlt) (hstaged n (Nat.le_of_lt_succ hlt))
    · exact .next hk hd hp hstaged

theorem inv_microStep_of_store {s : State} (h : Inv s) (hb : s.status = .busy) (hk : s.uop = 13) :
    Inv s.microStep := by
  obtain ⟨hm, he, hl, ha⟩ := h
  have hp := (hl.p_lt_iff hb).mpr (by rw [hk]; decide)
  have hg := hl.frameSize_lt hb
  obtain ⟨hd, hs, hle, -⟩ := hl hb
  have hstaged := (addressesStaged_iff s).mp ha hb (by rw [hk]; decide)
  rw [State.microStep_of_store hk]
  refine ⟨?_, ?_, fun _ => ?_, (addressesStaged_iff _).mpr (fun _ _ n hn => ?_)⟩
  · rcases s.storePixel_cases with ⟨-, hst⟩ | ⟨-, hst⟩ <;> rw [hst]
    · exact hm
    · exact memoriesCanonical_memWrite _ (hp.trans hg) hm
  · rw [s.storePixel_eq]; exact he
  · rw [s.storePixel_eq]; exact ⟨hd, hs, hle, nofun, fun hn => absurd hn hp.ne⟩
  · change n ≤ 14 at hn
    rcases Nat.lt_or_eq_of_le hn with hlt | rfl
    · exact (hstaged n (by rw [hk]; exact Nat.le_of_lt_succ hlt)).storePixel
    · trivial

theorem inv_microStep_of_advance {s : State} (h : Inv s) (hb : s.status = .busy) (hk : s.uop = 14) :
    Inv s.microStep := by
  obtain ⟨hm, he, hl, ha⟩ := h
  have hp := (hl.p_lt_iff hb).mpr (by rw [hk]; decide)
  have hg := hl.frameSize_lt hb
  obtain ⟨hd, hs, hle, -⟩ := hl hb
  have hinc := State.toNat_p_succ hp hg
  rw [State.microStep_of_advance hk]
  refine ⟨hm, he, fun _ => ⟨hd, hs, ?_, ?_⟩, (addressesStaged_iff _).mpr (fun _ h15 n hn => ?_)⟩
  · change (s.p + 1).toNat ≤ s.frameSize
    omega
  · change (if (s.p + 1).toNat < s.frameSize then (0 : BitVec 4) else 15) = 15 ↔ (s.p + 1).toNat = s.frameSize
    split
    · exact ⟨fun hn => absurd hn (by decide), fun hn => by omega⟩
    · exact ⟨fun _ => by omega, fun _ => rfl⟩
  · rw [State.setUop_uop] at h15 hn
    split at h15
    · next hlt =>
      rw [if_pos hlt] at hn
      obtain rfl : n = 0 := Nat.le_zero.mp hn
      trivial
    · exact absurd rfl h15

theorem inv_microStep_of_finish {s : State} (h : Inv s) (hb : s.status = .busy) (hk : s.uop = 15) :
    Inv s.microStep := by
  obtain ⟨hm, he, -, -⟩ := h
  obtain ⟨hcode, hactual, hexpected⟩ := he.of_busy hb
  rw [State.microStep_of_finish hk]
  exact inv_of_not_busy hm (errorsAgree_of_noError nofun hcode hactual hexpected) nofun

theorem inv_microStep {s : State} (h : Inv s) (hb : s.status = .busy) : Inv s.microStep := by
  rcases uop_kinds s.uop with hk | hk | hk | hk
  · exact inv_microStep_of_lt h hb hk
  · exact inv_microStep_of_store h hb hk
  · exact inv_microStep_of_advance h hb hk
  · exact inv_microStep_of_finish h hb hk

/-! ## A host access keeps the invariant -/

theorem inv_beginConversion {s : State} (h : Inv s) (hd : s.dimsPass = true) (hs : s.sizePass = true) :
    Inv s.clearErrors.beginConversion := by
  obtain ⟨⟨hfb, hpg, hfbk, hpgk, -⟩, -, -, -⟩ := h
  obtain ⟨⟨hw, -⟩, ⟨hh, -⟩, -⟩ := s.dimsPass_iff.mp hd
  have hpos : 0 < s.frameSize := Nat.mul_pos hw hh
  refine ⟨⟨hfb, hpg, hfbk, hpgk, hpg, hpgk⟩, errorsAgree_of_noError nofun rfl rfl rfl,
    fun _ => ⟨hd, hs, Nat.zero_le _, nofun, fun hn => absurd hn hpos.ne⟩, ?_⟩
  refine (addressesStaged_iff _).mpr (fun _ _ n hn => ?_)
  obtain rfl : n = 0 := Nat.le_zero.mp hn
  trivial

theorem inv_startCommand {s : State} (h : Inv s) : Inv s.startCommand := by
  rcases s.startCommand_cases with ⟨-, he⟩ | ⟨-, -, he⟩ | ⟨-, -, -, he⟩ | ⟨-, hd, hs, he⟩ <;> rw [he]
  · exact h
  · exact inv_of_not_busy h.1 ⟨⟨fun _ => rfl, nofun⟩, fun _ => ⟨rfl, rfl⟩⟩ nofun
  · exact inv_of_not_busy h.1 ⟨⟨fun _ => rfl, nofun⟩, fun hn => absurd rfl hn⟩ nofun
  · exact inv_beginConversion h hd hs

theorem inv_clearCommand {s : State} (h : Inv s) : Inv s.clearCommand := by
  rcases s.clearCommand_cases with ⟨-, he⟩ | ⟨-, he⟩ <;> rw [he]
  · exact inv_of_not_busy h.1 (errorsAgree_of_noError nofun rfl rfl rfl) nofun
  · exact h

theorem inv_of_access {s t : State} {i : Instr} (h : Inv s) (ha : Access s i t) : Inv t := by
  cases ha with
  | same | read => exact h
  | configure hb => exact inv_of_not_busy h.1 h.2.1 hb
  | start => exact inv_startCommand h
  | clear => exact inv_clearCommand h

/-! ## An event of the outside world keeps the invariant -/

theorem inv_writeFrame {s : State} {addr : Nat} {bytes : List Byte} (h : Inv s)
    (hlen : addr + bytes.length ≤ frameBufferEnd) : Inv (s.writeFrame addr bytes) := by
  obtain ⟨⟨hfb, hpg, hfbk, hrest⟩, hother⟩ := h
  exact ⟨⟨Memory.wf_writeList _ _ hfb, hpg, Memory.keysBelow_writeList _ hlen hfbk, hrest⟩, hother⟩

/-- A memory of PG's with the entries of the frame under way replaced is canonical still. -/
theorem canonical_replaceBelow {s : State} (hl : ConversionLegal s) (hb : s.status = .busy) {m : List (Nat × Word)}
    (f : Nat → Option Word) (hm : Memory.wf m = true) (hk : Memory.keysBelow pixelGridEnd m = true) :
    Memory.wf (Memory.replaceBelow m s.frameSize f) = true ∧
      Memory.keysBelow pixelGridEnd (Memory.replaceBelow m s.frameSize f) = true :=
  ⟨Memory.wf_replaceBelow _ _ hm, Memory.keysBelow_replaceBelow _ (hl.frameSize_lt hb).le hk⟩

theorem inv_raceOnFrame {s : State} {addr : Nat} {bytes : List Byte} (h : Inv s) (hb : s.status = .busy)
    (hlen : addr + bytes.length ≤ frameBufferEnd) : Inv (s.raceOnFrame addr bytes) := by
  obtain ⟨⟨hfb, hpg, hfbk, hpgk, hbefore⟩, he, hl, ha⟩ := h
  obtain ⟨hpg', hpgk'⟩ := canonical_replaceBelow hl hb
    (s.entryAfterFbWrite (s.writeFrame addr bytes) (s.pixelDependsOn addr bytes.length)) hpg hpgk
  exact ⟨⟨Memory.wf_writeList _ _ hfb, hpg', Memory.keysBelow_writeList _ hlen hfbk, hpgk', hbefore⟩, he, hl, ha⟩

theorem inv_memWrite {s : State} {i : Nat} {v : Word} (h : Inv s) (hi : i < pixelGridEnd) : Inv (s.memWrite i v) := by
  obtain ⟨hm, hother⟩ := h
  exact ⟨memoriesCanonical_memWrite v hi hm, hother⟩

theorem inv_raceOnGrid {s : State} {i : Nat} {v : Word} (h : Inv s) (hi : i < pixelGridEnd) :
    Inv (s.raceOnGrid i v) := by
  obtain ⟨⟨hfb, hpg, hfbk, hpgk, hbf, hbk⟩, hother⟩ := h
  exact ⟨⟨hfb, Memory.wf_write _ _ hpg, hfbk, Memory.keysBelow_write _ hi hpgk, Memory.wf_write _ _ hbf,
    Memory.keysBelow_write _ hi hbk⟩, hother⟩

theorem inv_hostReset {s : State} (h : Inv s) : Inv s.hostReset := by
  obtain ⟨⟨hfb, hpg, hfbk, hpgk, -⟩, -, hl, -⟩ := h
  have hgrid : Memory.wf s.gridAfterReset = true ∧ Memory.keysBelow pixelGridEnd s.gridAfterReset = true := by
    by_cases hb : s.status = .busy
    · rw [State.gridAfterReset, if_pos hb]
      exact canonical_replaceBelow hl hb _ hpg hpgk
    · rw [State.gridAfterReset, if_neg hb]
      exact ⟨hpg, hpgk⟩
  obtain ⟨hwf, hkeys⟩ := hgrid
  exact inv_of_not_busy ⟨hfb, hwf, hfbk, hkeys, rfl, rfl⟩ (errorsAgree_of_noError nofun rfl rfl rfl) nofun

theorem inv_of_hostEvent {s t : State} {e : HostEvent} (h : Inv s) (he : s.hostEvent e = .next t) : Inv t := by
  rcases s.hostEvent_cases e t he with
    ⟨addr, bytes, -, hlen, ⟨hb, rfl⟩ | ⟨-, rfl⟩⟩ | ⟨v, n, rfl, -⟩ | ⟨i, v, -, hi, ⟨-, rfl⟩ | ⟨-, rfl⟩⟩ | ⟨-, rfl⟩
  · exact inv_raceOnFrame h hb hlen
  · exact inv_writeFrame h hlen
  · exact h
  · exact inv_raceOnGrid h hi
  · exact inv_memWrite h hi
  · exact inv_hostReset h

/-! ## The obligations -/

/-- Settles O45: the reset state holds nothing, no error and no conversion. -/
theorem invariantHoldsAtReset : Obligations.InvariantHoldsAtReset :=
  inv_of_not_busy ⟨rfl, rfl, rfl, rfl, rfl, rfl⟩ (errorsAgree_of_noError nofun rfl rfl rfl) nofun

/-- Settles O46: each kind of step keeps the invariant. -/
theorem stepKeepsTheInvariant : Obligations.StepKeepsTheInvariant := by
  intro s t h hstep
  have htaken : Inv s.taken := h
  cases stepEffect_of_step hstep with
  | microOp hb hf hv =>
    obtain rfl := Host.Outcome.next.inj ((exec_uop_of_inv htaken hb).symm.trans hv)
    exact inv_microStep htaken hb
  | access ho hf ha => exact inv_of_access htaken ha
  | event ho hf he => exact inv_of_hostEvent htaken he
  | wait => exact htaken

theorem exists_hostEvent_eq_next {s : State} {e : HostEvent} (h : ¬e.missesMemory) : ∃ t, s.hostEvent e = .next t := by
  cases e with
  | fbWrite addr bytes => exact ⟨_, hostFbWrite_of_le (Nat.not_lt.mp h)⟩
  | fbRead addr => exact ⟨_, hostFbRead_of_lt (Nat.not_le.mp h)⟩
  | pgRead i =>
    obtain ⟨v, n, he, -⟩ := exists_hostPgRead_eq (s := s) (Nat.not_le.mp h)
    exact ⟨_, he⟩
  | pgWrite i v => exact ⟨_, hostPgWrite_of_lt (Nat.not_le.mp h)⟩
  | reset => exact ⟨_, rfl⟩

/-- No bus word names an offset that does not exist (R81). -/
theorem exists_exec_bus_eq_next (header : BitVec 4) (data : Word) (s : State) :
    ∃ t, exec (decode (.bus header data)) s = .next t := by
  obtain ⟨r, hr⟩ := Option.isSome_iff_exists.mp (hostRegAt_of_header header)
  cases hb : header.getLsbD 3 with
  | false => exact ⟨_, by rw [decode_bus_of_read hb, exec_rd_of_hostRegAt hr]⟩
  | true => exact ⟨_, by rw [decode_bus_of_write hb, exec_wr_of_hostRegAt hr]⟩

/-- Settles O49: a micro-operation of a state of the invariant is ready, a bus access names a register, a command goes
on everywhere, and an event stops on a missing address alone. -/
theorem nothingStopsButAMissingAddress : Obligations.NothingStopsButAMissingAddress := by
  intro s h hmiss
  rcases s.fetch_cases with ⟨hb, hf⟩ | ⟨-, header, data, hf⟩ | ⟨-, data, hf⟩ | ⟨-, e, hf⟩ | ⟨-, hf⟩
  · exact ⟨_, step_eq_microStep h hb hf⟩
  · rw [step_of_word hf, retire_bus]
    exact exists_exec_bus_eq_next header data _
  · rw [step_of_word hf, retire_ctrl, exec_decode_ctrl]
    exact ⟨_, rfl⟩
  · rw [step_of_event hf]
    exact exists_hostEvent_eq_next (hmiss e hf)
  · exact ⟨_, step_of_wait hf⟩

end Sys2Proof.Machine
end

section
/-! PROOFS. The invariant of a conversion in progress, and the grid at DONE (41_sample_fetch.md R132 to R136;
42_colour_matrix.md R151 to R153; 43_clamp_store.md R170 to R175, R182, R183; 20_memory.md R64, R65). -/

namespace Sys2Proof.Machine

/-! ## The value registers -/

/-- What the micro-operation before `n` leaves in a value register of a pixel step, for a pixel with luma byte `y` and
raw chroma bytes `u` and `v` (R132 to R136, R151 to R153, R170 to R173). -/
def DatapathStaged (y u v : Byte) (dp : Datapath) : Nat → Prop
  | 3 => dp.yv = y
  | 5 => dp.cw = v ++ u
  | 6 => dp.ub = u ∧ dp.vb = v
  | 7 => dp.u = centre u ∧ dp.v = centre v
  | 8 => dp.rv = channelR y (centre v)
  | 9 => dp.gv = channelG y (centre u) (centre v)
  | 10 => dp.bv = channelB y (centre u)
  | 11 => dp.ri = truncChannel dp.rv ∧ dp.gi = truncChannel dp.gv ∧ dp.bi = truncChannel dp.bv
  | 12 => dp.r8 = (colourOf y u v).r ∧ dp.g8 = (colourOf y u v).g ∧ dp.b8 = (colourOf y u v).b
  | 13 => dp.pw = (colourOf y u v).word
  | _ => True

/-- The same for pixel `P`. -/
def ValueStaged (s : State) (n : Nat) : Prop := DatapathStaged s.lumaOfP s.uOfP s.vOfP s.dp n

/-- Entry `P` holds its pixel, unless it is decided (R174). -/
def EntryStaged (s : State) : Prop := s.p.toNat ∉ s.settled → s.gridEntry s.p.toNat = some s.colourOfP.word

/-- `ValuesStaged`, one micro-operation at a time. -/
theorem valuesStaged_iff (s : State) :
    ValuesStaged s ↔ (s.status = .busy → s.uop ≠ 15 →
      (∀ n, n ≤ s.uop.toNat → ValueStaged s n) ∧ (14 ≤ s.uop.toNat → EntryStaged s)) := by
  constructor
  · intro h hb hu
    obtain ⟨h3, h5, h6, h7, h8, h9, h10, h11, h12, h13, h14⟩ := h hb hu
    refine ⟨fun n hn => ?_, h14⟩
    match n, hn with
    | 3, hn => exact h3 hn
    | 5, hn => exact h5 hn
    | 6, hn => exact h6 hn
    | 7, hn => exact h7 hn
    | 8, hn => exact h8 hn
    | 9, hn => exact h9 hn
    | 10, hn => exact h10 hn
    | 11, hn => exact h11 hn
    | 12, hn => exact h12 hn
    | 13, hn => exact h13 hn
    | 0, _ | 1, _ | 2, _ | 4, _ | _ + 14, _ => trivial
  · intro h hb hu
    obtain ⟨staged, entry⟩ := h hb hu
    exact ⟨staged 3, staged 5, staged 6, staged 7, staged 8, staged 9, staged 10, staged 11, staged 12, staged 13,
      entry⟩

/-- The bytes of pixel `P` are the same after a micro-operation on the datapath registers. -/
theorem valueStaged_microEffect_iff (s : State) {k : BitVec 4} (hk : k.toNat < 13) (n : Nat) :
    ValueStaged (s.microEffect (decode (.uop k))) n ↔
      DatapathStaged s.lumaOfP s.uOfP s.vOfP (s.microEffect (decode (.uop k))).dp n := by
  obtain ⟨dp, hdp⟩ := exists_microEffect_eq s hk
  rw [hdp]
  rfl

/-- A micro-operation leaves the value registers written before it. -/
theorem ValueStaged.keep {s : State} {k : BitVec 4} {n : Nat} (hk : k.toNat < 13) (hn : n ≤ k.toNat)
    (h : ValueStaged s n) : ValueStaged (s.microEffect (decode (.uop k))) n := by
  rw [valueStaged_microEffect_iff s hk]
  unfold ValueStaged at h
  obtain ⟨⟨k, h16⟩⟩ := k
  change k < 13 at hk
  change n ≤ k at hn
  interval_cases k <;> interval_cases n <;> exact h

/-- The three lanes, clamped, are the colour of pixel `P`. -/
theorem valueStaged_clamp {s : State} (h8 : ValueStaged s 8) (h9 : ValueStaged s 9) (h10 : ValueStaged s 10)
    (h11 : ValueStaged s 11) :
    clampChannel s.dp.ri.toInt = s.colourOfP.r ∧ clampChannel s.dp.gi.toInt = s.colourOfP.g ∧
      clampChannel s.dp.bi.toInt = s.colourOfP.b := by
  obtain ⟨hri, hgi, hbi⟩ := h11
  change s.dp.rv = _ at h8
  change s.dp.gv = _ at h9
  change s.dp.bv = _ at h10
  rw [hri, hgi, hbi, h8, h9, h10, toInt_truncChannel (truncChannel_channelR _ _).2,
    toInt_truncChannel (truncChannel_channelG _ _ _).2, toInt_truncChannel (truncChannel_channelB _ _).2]
  exact ⟨rfl, rfl, rfl⟩

theorem chromaU_append (hi lo : Byte) : chromaU (hi ++ lo) = lo := by
  refine BitVec.eq_of_toNat_eq ?_
  have hlo := lo.isLt
  rw [toNat_chromaU, toNat_append_byte]
  omega

theorem chromaV_append (hi lo : Byte) : chromaV (hi ++ lo) = hi := by
  refine BitVec.eq_of_toNat_eq ?_
  have hlo := lo.isLt
  rw [toNat_chromaV, toNat_append_byte]
  omega

/-- The value register a micro-operation writes holds its value of pixel `P` then. -/
theorem ValueStaged.next {s : State} {k : BitVec 4} (hk : k.toNat < 13) (ha : ∀ n, n ≤ k.toNat → AddressStaged s n)
    (h : ∀ n, n ≤ k.toNat → ValueStaged s n) : ValueStaged (s.microEffect (decode (.uop k))) (k.toNat + 1) := by
  rw [valueStaged_microEffect_iff s hk]
  obtain ⟨⟨k, h16⟩⟩ := k
  change k < 13 at hk
  change ∀ n, n ≤ k → AddressStaged s n at ha
  change ∀ n, n ≤ k → ValueStaged s n at h
  interval_cases k
  iterate 2 trivial
  · have hla : s.dp.la.toNat = s.p.toNat := ha 2 le_rfl
    exact congrArg s.frameByte hla
  · trivial
  · have hca : s.dp.ca.toNat = s.chromaAddressOfP := ha 4 le_rfl
    have hcw : s.frameByte (s.dp.ca.toNat + 1) ++ s.frameByte s.dp.ca.toNat = s.vOfP ++ s.uOfP := by
      rw [hca]
      rfl
    exact hcw
  · have hcw : s.dp.cw = s.vOfP ++ s.uOfP := h 5 le_rfl
    change chromaU s.dp.cw = _ ∧ chromaV s.dp.cw = _
    rw [hcw, chromaU_append, chromaV_append]
    exact ⟨rfl, rfl⟩
  · obtain ⟨hub, hvb⟩ : s.dp.ub = s.uOfP ∧ s.dp.vb = s.vOfP := h 6 le_rfl
    exact ⟨congrArg centre hub, congrArg centre hvb⟩
  · have hyv : s.dp.yv = s.lumaOfP := h 3 (by decide)
    obtain ⟨-, hv⟩ : s.dp.u = centre s.uOfP ∧ s.dp.v = centre s.vOfP := h 7 le_rfl
    exact congrArg₂ channelR hyv hv
  · have hyv : s.dp.yv = s.lumaOfP := h 3 (by decide)
    obtain ⟨hu, hv⟩ : s.dp.u = centre s.uOfP ∧ s.dp.v = centre s.vOfP := h 7 (by decide)
    change channelG s.dp.yv s.dp.u s.dp.v = _
    rw [hyv, hu, hv]
  · have hyv : s.dp.yv = s.lumaOfP := h 3 (by decide)
    obtain ⟨hu, -⟩ : s.dp.u = centre s.uOfP ∧ s.dp.v = centre s.vOfP := h 7 (by decide)
    exact congrArg₂ channelB hyv hu
  · exact ⟨rfl, rfl, rfl⟩
  · exact valueStaged_clamp (h 8 (by decide)) (h 9 (by decide)) (h 10 (by decide)) (h 11 le_rfl)
  · obtain ⟨hr, hg, hb⟩ : s.dp.r8 = s.colourOfP.r ∧ s.dp.g8 = s.colourOfP.g ∧ s.dp.b8 = s.colourOfP.b := h 12 le_rfl
    change packPixel s.dp.r8 s.dp.g8 s.dp.b8 = _
    rw [hr, hg, hb]
    rfl

theorem ValueStaged.storePixel {s : State} {n : Nat} (h : ValueStaged s n) : ValueStaged s.storePixel n := by
  rw [s.storePixel_eq]
  exact h

/-- A pixel step's store leaves the pixel word in entry `P`, where that is not decided yet (R174). -/
theorem entryStaged_storePixel {s : State} (h : ValueStaged s 13) : EntryStaged s.storePixel := by
  rcases s.storePixel_cases with ⟨hin, he⟩ | ⟨-, he⟩ <;> rw [he]
  · exact fun hout => absurd hin hout
  · intro _
    rw [State.gridEntry_memWrite]
    exact (if_pos rfl).trans (congrArg some h)

/-- Between CORE steps no value register is spoken of. -/
theorem valuesStaged_of_not_open {s : State} (ho : s.pixelStepOpen = false) : ValuesStaged s := by
  rw [s.pixelStepOpen_eq_false_iff] at ho
  refine (valuesStaged_iff s).mpr (fun hb h15 => ?_)
  have h0 : s.uop = 0 := not_not.mp (fun h0 => ho ⟨hb, h0, h15⟩)
  rw [h0]
  refine ⟨fun n hn => ?_, fun hn => absurd hn (by decide)⟩
  obtain rfl : n = 0 := Nat.le_zero.mp hn
  trivial

theorem valuesStaged_microStep {s : State} (h : Inv s) (hv : ValuesStaged s) (hb : s.status = .busy) :
    ValuesStaged s.microStep := by
  rw [valuesStaged_iff] at hv
  have ha := (addressesStaged_iff s).mp h.2.2.2
  rcases uop_kinds s.uop with hk | hk | hk | hk
  · have h15 : s.uop ≠ 15 := (uop_ne_fifteen_iff _).mpr (by omega)
    obtain ⟨hstaged, -⟩ := hv hb h15
    have hsucc := toNat_succ_of_lt (k := s.uop) (by omega)
    rw [State.microStep_of_lt hk]
    refine (valuesStaged_iff _).mpr (fun _ _ => ?_)
    rw [State.setUop_uop, hsucc]
    refine ⟨fun n hn => ?_, fun hn => by omega⟩
    change ValueStaged (s.microEffect (decode (.uop s.uop))) n
    rcases Nat.lt_or_eq_of_le hn with hlt | rfl
    · exact .keep hk (Nat.le_of_lt_succ hlt) (hstaged n (Nat.le_of_lt_succ hlt))
    · exact .next hk (ha hb h15) hstaged
  · obtain ⟨hstaged, -⟩ := hv hb (by rw [hk]; decide)
    rw [hk] at hstaged
    rw [State.microStep_of_store hk]
    refine (valuesStaged_iff _).mpr (fun _ _ => ⟨fun n hn => ?_, fun _ => entryStaged_storePixel (hstaged 13 le_rfl)⟩)
    change ValueStaged s.storePixel n
    rcases Nat.lt_or_eq_of_le hn with hlt | rfl
    · exact (hstaged n (Nat.le_of_lt_succ hlt)).storePixel
    · trivial
  · refine valuesStaged_of_not_open ?_
    rw [State.microStep_of_advance hk, State.pixelStepOpen_eq_false_iff, State.setUop_uop]
    rintro ⟨-, h0, h15⟩
    split at h0
    · exact h0 rfl
    · next hn => exact h15 (if_neg hn)
  · rw [State.microStep_of_finish hk]
    exact nofun

/-! ## The grid -/

/-- The pixel of entry `P` is the colour of pixel `P` (R131, R177). -/
theorem State.pixelWord_p (s : State) : s.pixelWord s.p.toNat = s.colourOfP.word := by
  rw [State.pixelWord, pixelWordAt, pixelAt, lumaAddressAt_mod_div]
  rfl

theorem gridSoFar_microStep {s : State} (h : ConversionInv s) (hb : s.status = .busy) : GridSoFar s.microStep := by
  obtain ⟨⟨-, -, hl, -⟩, hv, hsofar, -⟩ := h
  have before := hsofar hb
  rcases uop_kinds s.uop with hk | hk | hk | hk
  · obtain ⟨dp, hdp⟩ := exists_microEffect_eq s hk
    rw [State.microStep_of_lt hk, hdp]
    exact hsofar
  · rw [State.microStep_of_store hk, s.storePixel_eq]
    intro _ i hi hs
    exact (s.gridEntry_storePixel_of_ne (Nat.ne_of_lt hi)).trans (before i hi hs)
  · have h15 : s.uop ≠ 15 := by rw [hk]; decide
    have hinc := State.toNat_p_succ ((hl.p_lt_iff hb).mpr h15) (hl.frameSize_lt hb)
    obtain ⟨-, hentry⟩ := (valuesStaged_iff s).mp hv hb h15
    have hstored : EntryStaged s := hentry (by rw [hk]; decide)
    rw [State.microStep_of_advance hk]
    intro _ i hi hs
    change i < (s.p + 1).toNat at hi
    rw [hinc] at hi
    rcases Nat.lt_or_eq_of_le (Nat.le_of_lt_succ hi) with hlt | rfl
    · exact before i hlt hs
    · exact (hstored hs).trans (congrArg some s.pixelWord_p.symm)
  · rw [State.microStep_of_finish hk]
    exact nofun

theorem gridStillBefore_microStep {s : State} (h : ConversionInv s) (hb : s.status = .busy) :
    GridStillBefore s.microStep := by
  obtain ⟨⟨-, -, hl, -⟩, -, -, hstill⟩ := h
  have past := hstill hb
  rcases uop_kinds s.uop with hk | hk | hk | hk
  · obtain ⟨dp, hdp⟩ := exists_microEffect_eq s hk
    rw [State.microStep_of_lt hk, hdp]
    exact hstill
  · rw [State.microStep_of_store hk, s.storePixel_eq]
    intro _ i hi hlt hs
    exact (s.gridEntry_storePixel_of_ne (Nat.ne_of_gt hi)).trans (past i hi hlt hs)
  · have hinc := State.toNat_p_succ ((hl.p_lt_iff hb).mpr (by rw [hk]; decide)) (hl.frameSize_lt hb)
    rw [State.microStep_of_advance hk]
    intro _ i hi hlt hs
    change (s.p + 1).toNat < i at hi
    exact past i (by omega) hlt hs
  · rw [State.microStep_of_finish hk]
    exact nofun

theorem conversionInv_microStep {s : State} (h : ConversionInv s) (hb : s.status = .busy) :
    ConversionInv s.microStep :=
  ⟨inv_microStep h.1 hb, valuesStaged_microStep h.1 h.2.1 hb, gridSoFar_microStep h hb,
    gridStillBefore_microStep h hb⟩

/-! ## The host's moves -/

/-- Outside BUSY the invariant of a conversion says no more than the invariant. -/
theorem conversionInv_of_not_busy {s : State} (h : Inv s) (hb : s.status ≠ .busy) : ConversionInv s :=
  ⟨h, fun hn => absurd hn hb, fun hn => absurd hn hb, fun hn => absurd hn hb⟩

/-- A conversion that begins has stored nothing, and PG is as it finds it (R111). -/
theorem conversionInv_startCommand {s : State} (h : ConversionInv s) : ConversionInv s.startCommand := by
  have hinv := inv_startCommand h.1
  rcases s.startCommand_cases with ⟨-, he⟩ | ⟨-, -, he⟩ | ⟨-, -, -, he⟩ | ⟨-, -, -, he⟩ <;> rw [he] at hinv ⊢
  · exact h
  · exact conversionInv_of_not_busy hinv nofun
  · exact conversionInv_of_not_busy hinv nofun
  · exact ⟨hinv, valuesStaged_of_not_open rfl, fun _ i hi _ => absurd hi (Nat.not_lt_zero i), fun _ _ _ _ _ => rfl⟩

theorem conversionInv_clearCommand {s : State} (h : ConversionInv s) : ConversionInv s.clearCommand := by
  have hinv := inv_clearCommand h.1
  rcases s.clearCommand_cases with ⟨-, he⟩ | ⟨-, he⟩ <;> rw [he] at hinv ⊢
  · exact conversionInv_of_not_busy hinv nofun
  · exact h

theorem conversionInv_of_access {s t : State} {i : Instr} (h : ConversionInv s) (ha : Access s i t) :
    ConversionInv t := by
  have hinv := inv_of_access h.1 ha
  cases ha with
  | same | read => exact h
  | configure hb => exact conversionInv_of_not_busy hinv hb
  | start => exact conversionInv_startCommand h
  | clear => exact conversionInv_clearCommand h

/-- After a host write to FB in BUSY, an entry that is not decided is the pixel of the bytes now where its step is done,
and as before where it is to come (R64). -/
theorem gridEntry_raceOnFrame_of_not_settled {s : State} {addr : Nat} {bytes : List Byte} {i : Nat}
    (hi : i < s.frameSize) (hs : i ∉ (s.raceOnFrame addr bytes).settled)
    (hdone : i < s.p.toNat → s.gridEntry i = some (s.pixelWord i)) :
    (s.raceOnFrame addr bytes).gridEntry i =
      if i < s.p.toNat then some ((s.writeFrame addr bytes).pixelWord i) else s.gridEntry i := by
  have hs' : i ∉ s.settled := fun hn => hs ((s.mem_settled_raceOnFrame _ _ _).mpr ⟨hi, .inl hn⟩)
  cases hd : s.pixelDependsOn addr bytes.length i with
  | true => exact ((State.raceOnFrame_of_dependent hi hs' hd).resolve_left (fun hn => hs hn.1)).2
  | false =>
    rw [(State.raceOnFrame_of_independent (.inr (.inr hd))).1, s.pixelWord_writeFrame _ _ _ hd]
    split
    · next hlt => exact hdone hlt
    · rfl

theorem conversionInv_raceOnFrame {s : State} {addr : Nat} {bytes : List Byte} (h : ConversionInv s)
    (ho : s.pixelStepOpen = false) (hb : s.status = .busy) (hlen : addr + bytes.length ≤ frameBufferEnd) :
    ConversionInv (s.raceOnFrame addr bytes) := by
  obtain ⟨hinv, -, hsofar, hstill⟩ := h
  obtain ⟨-, -, hle, -⟩ := hinv.2.2.1 hb
  have undecided {i : Nat} (hs : i ∉ (s.raceOnFrame addr bytes).settled) (hi : i < s.frameSize) : i ∉ s.settled :=
    fun hn => hs ((s.mem_settled_raceOnFrame _ _ _).mpr ⟨hi, .inl hn⟩)
  refine ⟨inv_raceOnFrame hinv hb hlen, valuesStaged_of_not_open ho, ?_, ?_⟩
  · intro _ i hi hs
    rw [State.raceOnFrame_p] at hi
    have hlt : i < s.frameSize := Nat.lt_of_lt_of_le hi hle
    rw [gridEntry_raceOnFrame_of_not_settled hlt hs (fun _ => hsofar hb i hi (undecided hs hlt))]
    exact if_pos hi
  · intro _ i hi (hlt : i < s.frameSize) hs
    rw [State.raceOnFrame_p] at hi
    have hnot : ¬i < s.p.toNat := Nat.lt_asymm hi
    rw [gridEntry_raceOnFrame_of_not_settled hlt hs (fun hn => absurd hn hnot), if_neg hnot]
    exact hstill hb i hi hlt (undecided hs hlt)

theorem conversionInv_raceOnGrid {s : State} {i : Nat} {v : Word} (h : ConversionInv s) (ho : s.pixelStepOpen = false)
    (hi : i < pixelGridEnd) (hb : s.status = .busy) : ConversionInv (s.raceOnGrid i v) := by
  obtain ⟨hinv, -, hsofar, hstill⟩ := h
  obtain ⟨-, -, hle, -⟩ := hinv.2.2.1 hb
  have undecided {j : Nat} (hs : j ∉ (s.raceOnGrid i v).settled) (hj : j < s.frameSize) : j ∉ s.settled :=
    fun hn => hs ((s.mem_settled_raceOnGrid _ _ _).mpr ⟨hj, .inl hn⟩)
  refine ⟨inv_raceOnGrid hinv hi, valuesStaged_of_not_open ho, ?_, ?_⟩
  · intro _ j hj hs
    rw [State.raceOnGrid_p] at hj
    have hlt : j < s.frameSize := Nat.lt_of_lt_of_le hj hle
    rw [s.gridEntry_raceOnGrid]
    split
    · next hji =>
      subst hji
      rw [State.entryAfterPgWrite_of_not_settled hlt hs, if_pos hj]
      rfl
    · exact hsofar hb j hj (undecided hs hlt)
  · intro _ j hj (hlt : j < s.frameSize) hs
    rw [State.raceOnGrid_p] at hj
    rw [s.gridEntry_raceOnGrid]
    split
    · next hji =>
      subst hji
      rw [State.entryAfterPgWrite_of_not_settled hlt hs, if_neg (Nat.lt_asymm hj)]
      exact (Memory.read_write_same _ _ _).symm
    · next hji => exact (hstill hb j hj hlt (undecided hs hlt)).trans (Memory.read_write_other _ _ hji).symm

/-- A host write to an entry that the conversion under way does not fill. -/
theorem conversionInv_memWrite {s : State} {i : Nat} {v : Word} (h : ConversionInv s) (ho : s.pixelStepOpen = false)
    (hi : i < pixelGridEnd) (hn : ¬(s.status = .busy ∧ i < s.frameSize)) : ConversionInv (s.memWrite i v) := by
  obtain ⟨hinv, -, hsofar, hstill⟩ := h
  refine ⟨inv_memWrite hinv hi, valuesStaged_of_not_open ho, fun hb j (hj : j < s.p.toNat) hs => ?_,
    fun hb j (hj : s.p.toNat < j) (hlt : j < s.frameSize) hs => ?_⟩
  · obtain ⟨-, -, hle, -⟩ := hinv.2.2.1 hb
    have hji : j ≠ i := fun he => hn ⟨hb, he ▸ Nat.lt_of_lt_of_le hj hle⟩
    rw [s.gridEntry_memWrite, if_neg hji]
    exact hsofar hb j hj hs
  · have hji : j ≠ i := fun he => hn ⟨hb, he ▸ hlt⟩
    rw [s.gridEntry_memWrite, if_neg hji]
    exact hstill hb j hj hlt hs

theorem conversionInv_of_hostEvent {s t : State} {e : HostEvent} (h : ConversionInv s) (ho : s.pixelStepOpen = false)
    (he : s.hostEvent e = .next t) : ConversionInv t := by
  have hinv := inv_of_hostEvent h.1 he
  rcases s.hostEvent_cases e t he with
    ⟨addr, bytes, -, hlen, ⟨hb, rfl⟩ | ⟨hb, rfl⟩⟩ | ⟨v, n, rfl, -⟩ | ⟨i, v, -, hi, ⟨hb, rfl⟩ | ⟨hn, rfl⟩⟩ | ⟨-, rfl⟩
  · exact conversionInv_raceOnFrame h ho hb hlen
  · exact conversionInv_of_not_busy hinv hb
  · exact h
  · exact conversionInv_raceOnGrid h ho hi hb.1
  · exact conversionInv_memWrite h ho hi hn
  · exact conversionInv_of_not_busy hinv nofun

/-- Settles O47: each kind of step keeps the invariant of a conversion in progress, the host's moves between CORE
steps. -/
theorem stepKeepsTheConversionInvariant : Obligations.StepKeepsTheConversionInvariant := by
  intro s t h hstep
  have htaken : ConversionInv s.taken := h
  cases stepEffect_of_step hstep with
  | microOp hb hf hv =>
    obtain rfl := Host.Outcome.next.inj ((exec_uop_of_inv htaken.1 hb).symm.trans hv)
    exact conversionInv_microStep htaken hb
  | access ho hf ha => exact conversionInv_of_access htaken ha
  | event ho hf he => exact conversionInv_of_hostEvent htaken ho he
  | wait => exact htaken

end Sys2Proof.Machine
end

section
/-! PROOFS. The step to DONE, the decided entries, and the grid as a function of the frame (43_clamp_store.md R182,
R183; 20_memory.md R64, R65). -/

namespace Sys2Proof.Machine

/-! ## The step to DONE -/

/-- Only the finish step leads to DONE (R179). -/
theorem step_to_done {s t : State} (h : Inv s) (hstep : step s = .next t) (hne : s.status ≠ .done)
    (ht : t.status = .done) :
    s.status = .busy ∧ s.p.toNat = s.frameSize ∧ t = (s.taken.setStatus .done).setUop 0 := by
  obtain ⟨hb, hf, hp⟩ : s.status = .busy ∧ s.fetch.1 = .word (.uop 15) ∧ s.p.toNat = s.frameSize := by
    rcases stateChangesOnlyByTheListedTransitions s t hstep (by rw [ht]; exact hne.symm) with
      ⟨-, hi⟩ | ⟨-, -, ⟨hi, -⟩ | ⟨hi, -⟩⟩ | ⟨hb, hf, hp, -⟩ | ⟨-, hi, -⟩
    case inr.inr.inl => exact ⟨hb, hf, hp⟩
    all_goals rw [hi] at ht; cases ht
  obtain ⟨-, -, -, hfin⟩ := h.2.2.1 hb
  have hk : s.uop = 15 := hfin.mpr hp
  have hmicro := step_eq_microStep h hb (by rw [hf, hk])
  rw [State.microStep_of_finish (s := s.taken) hk, hstep] at hmicro
  exact ⟨hb, hp, Host.Outcome.next.inj hmicro⟩

/-- At the finish step every entry of the frame that is not decided holds its pixel (R182). -/
theorem gridEntry_at_finish {s : State} (h : ConversionInv s) (hb : s.status = .busy) (hp : s.p.toNat = s.frameSize)
    {i : Nat} (hi : i < s.frameSize) (hs : i ∉ s.settled) : s.gridEntry i = some (s.pixelWord i) := by
  obtain ⟨-, -, hsofar, -⟩ := h
  exact hsofar hb i (hp ▸ hi) hs

/-! ## Decided entries -/

/-- A decided entry stays decided and as it is. -/
def KeepsDecided (s t : State) (i : Nat) : Prop := i ∈ t.settled ∧ t.gridEntry i = s.gridEntry i

theorem keepsDecided_storePixel {s : State} {i : Nat} (hs : i ∈ s.settled) : KeepsDecided s s.storePixel i := by
  rcases s.storePixel_cases with ⟨-, he⟩ | ⟨hout, he⟩ <;> rw [he]
  · exact ⟨hs, rfl⟩
  · have hne : i ≠ s.p.toNat := fun hn => hout (hn ▸ hs)
    exact ⟨hs, by rw [s.gridEntry_memWrite, if_neg hne]⟩

theorem keepsDecided_of_microOp {s v : State} {k : BitVec 4} {i : Nat} (h : exec (decode (.uop k)) s = .next v)
    (hs : i ∈ s.settled) : KeepsDecided s v i := by
  rcases microOp_cases h with ⟨dp, rfl⟩ | ⟨rfl, -⟩ | rfl | ⟨-, -, rfl⟩
  · exact ⟨hs, rfl⟩
  · exact keepsDecided_storePixel hs
  · exact ⟨hs, rfl⟩
  · exact ⟨hs, rfl⟩

theorem keepsDecided_of_access {s t : State} {j : Instr} {i : Nat} (h : Access s j t) (hb : s.status = .busy)
    (hs : i ∈ s.settled) : KeepsDecided s t i := by
  cases h with
  | same | read => exact ⟨hs, rfl⟩
  | configure hn => exact absurd hb hn
  | start => rw [State.startCommand_of_busy hb]; exact ⟨hs, rfl⟩
  | clear => rw [State.clearCommand_of_idle_or_busy (.inr hb)]; exact ⟨hs, rfl⟩

theorem keepsDecided_of_hostEvent {s t : State} {e : HostEvent} {i : Nat} (h : s.hostEvent e = .next t)
    (hr : e ≠ .reset) (hi : i < s.frameSize) (hs : i ∈ s.settled) :
    i ∈ t.settled ∧ ((∀ v, e ≠ .pgWrite i v) → t.gridEntry i = s.gridEntry i) := by
  rcases s.hostEvent_cases e t h with
    ⟨addr, bytes, -, -, ⟨-, rfl⟩ | ⟨-, rfl⟩⟩ | ⟨v, n, rfl, -⟩ | ⟨j, v, rfl, -, ⟨-, rfl⟩ | ⟨-, rfl⟩⟩ | ⟨he, -⟩
  · obtain ⟨hentry, hsettled⟩ := State.raceOnFrame_of_independent (addr := addr) (bytes := bytes) (.inr (.inl hs))
    exact ⟨(hsettled hi).mpr hs, fun _ => hentry⟩
  · exact ⟨hs, fun _ => rfl⟩
  · exact ⟨hs, fun _ => rfl⟩
  · refine ⟨(s.mem_settled_raceOnGrid _ _ _).mpr ⟨hi, .inl hs⟩, fun hn => ?_⟩
    have hij : i ≠ j := fun he => hn v (he ▸ rfl)
    rw [s.gridEntry_raceOnGrid, if_neg hij]
  · refine ⟨hs, fun hn => ?_⟩
    have hij : i ≠ j := fun he => hn v (he ▸ rfl)
    rw [s.gridEntry_memWrite, if_neg hij]
  · exact absurd he hr

theorem keepsDecided_of_step {s t : State} {i : Nat} (hb : s.status = .busy) (hr : s.fetch.1 ≠ .event .reset)
    (h : step s = .next t) (hi : i < s.frameSize) (hs : i ∈ s.settled) :
    i ∈ t.settled ∧ ((∀ v, s.fetch.1 ≠ .event (.pgWrite i v)) → t.gridEntry i = s.gridEntry i) := by
  cases stepEffect_of_step h with
  | microOp _ _ hv =>
    obtain ⟨hsettled, hentry⟩ := keepsDecided_of_microOp hv (i := i) hs
    exact ⟨hsettled, fun _ => hentry⟩
  | access _ _ ha =>
    obtain ⟨hsettled, hentry⟩ := keepsDecided_of_access ha hb (i := i) hs
    exact ⟨hsettled, fun _ => hentry⟩
  | event _ hf he =>
    rw [hf] at hr ⊢
    have hreset := fun hn => hr (congrArg Fetched.event hn)
    obtain ⟨hsettled, hentry⟩ := keepsDecided_of_hostEvent he hreset (i := i) hi hs
    exact ⟨hsettled, fun hn => hentry (fun v hv => hn v (congrArg Fetched.event hv))⟩
  | wait hn => exact absurd hb hn

/-! ## The obligations -/

/-- Settles O48: the step to DONE is the finish step, before which every pixel is stored; and no kind of step changes a
decided entry but a write of the host to it. -/
theorem doneMeansTheGridIsComplete : Obligations.DoneMeansTheGridIsComplete := by
  refine ⟨fun s t h hstep hne ht => ?_, fun s t hb hr hstep i hi hs => keepsDecided_of_step hb hr hstep hi hs⟩
  obtain ⟨hb, hp, rfl⟩ := step_to_done h.1 hstep hne ht
  obtain ⟨hcode, hactual, hexpected⟩ := h.1.2.1.of_busy hb
  refine ⟨⟨0, s.fetch.2, rfl⟩, rfl, rfl, rfl, rfl, rfl, hcode, hactual, hexpected, fun i hi hs => ?_, fun hs i hi => ?_⟩
  · exact gridEntry_at_finish h hb hp hi hs
  · exact gridEntry_at_finish h hb hp hi (hs ▸ List.not_mem_nil)

/-- The pixels of a frame of legal dimensions are those of any other with the same dimensions and the same bytes below
the expected size (R137, R183). -/
theorem pixelWord_congr_of_bytes {s₁ s₂ : State} (hd : s₁.dimsPass = true) (hw : s₁.width = s₂.width)
    (hh : s₁.height = s₂.height)
    (hbytes : ∀ a, a < expectedSize s₁.width.toNat s₁.height.toNat → s₁.frameByte a = s₂.frameByte a)
    {i : Nat} (hi : i < s₁.frameSize) : s₁.pixelWord i = s₂.pixelWord i := by
  obtain ⟨hla, hca, -⟩ := addresses_lt_expectedSize hd hi
  refine (State.pixelWord_congr (s := s₁) (t := s₂) hw.symm hh.symm fun a ha => (hbytes a ?_).symm).symm
  simp only [State.pixelReads, List.mem_cons, List.not_mem_nil, or_false] at ha
  omega

/-- Settles O54: at the finish step of either run every entry holds its pixel, and the two runs have the same pixels. -/
theorem finalGridIsAFunctionOfTheFrame : Obligations.FinalGridIsAFunctionOfTheFrame := by
  intro s₁ s₂ t₁ t₂ h₁ h₂ hstep₁ hstep₂ hb₁ hb₂ ht₁ ht₂ hw hh hbytes i hi hs₁ hs₂
  obtain ⟨-, hp₁, rfl⟩ := step_to_done h₁.1 hstep₁ (by rw [hb₁]; decide) ht₁
  obtain ⟨-, hp₂, rfl⟩ := step_to_done h₂.1 hstep₂ (by rw [hb₂]; decide) ht₂
  obtain ⟨hd, hsize, -⟩ := h₁.1.2.2.1 hb₁
  rw [s₁.sizePass_iff] at hsize
  have hi₂ : i < s₂.frameSize := by rwa [State.frameSize, ← hw, ← hh]
  calc s₁.gridEntry i
    _ = some (s₁.pixelWord i) := gridEntry_at_finish h₁ hb₁ hp₁ hi hs₁
    _ = some (s₂.pixelWord i) := congrArg some (pixelWord_congr_of_bytes hd hw hh (hsize ▸ hbytes) hi)
    _ = s₂.gridEntry i := (gridEntry_at_finish h₂ hb₂ hp₂ hi₂ hs₂).symm

end Sys2Proof.Machine
end

section
/-! PROOFS. Runs: fifteen steps are one pixel step, and a conversion runs from START to DONE (43_clamp_store.md R177,
R180, R182). -/

namespace Sys2Proof.Machine

/-! ## Runs of micro-operations -/

theorem runSteps_succ_of_step {s t : State} (h : step s = .next t) (n : Nat) : runSteps (n + 1) s = runSteps n t := by
  rw [runSteps, h]

/-- As long as each step is the selected micro-operation, the run is that many micro-operations. -/
theorem runSteps_eq_iterate {s : State} {n : Nat}
    (h : ∀ k, k < n → step (State.microStep^[k] s) = .next (State.microStep^[k] s).microStep) :
    runSteps n s = .next (State.microStep^[n] s) := by
  induction n generalizing s with
  | zero => rfl
  | succ n ih =>
    rw [runSteps_succ_of_step (s := s) (h 0 n.succ_pos)]
    exact ih (fun k hk => h (k + 1) (Nat.succ_lt_succ hk))

theorem taken_eq_self {s : State} (hm : s.fetch.2 = s.moves) : s.taken = s := by
  rw [State.taken, hm]
  rfl

/-- Within a pixel step no move is taken off the queue (R177; log entry 1). -/
theorem step_of_open {s : State} (h : Inv s) (ho : s.pixelStepOpen = true) : step s = .next s.microStep := by
  have hf := s.fetch_of_open ho
  have hstep := step_eq_microStep h (s.pixelStepOpen_iff.mp ho).1 (by rw [hf])
  rwa [taken_eq_self (by rw [hf])] at hstep

/-- With no move queued every turn is CORE's (R180). -/
theorem step_of_no_moves {s : State} (h : Inv s) (hb : s.status = .busy) (hm : s.moves = []) :
    step s = .next s.microStep := by
  by_cases hopen : s.pixelStepOpen = true
  · exact step_of_open h hopen
  · have hf : s.fetch = (.word (.uop s.uop), []) := by
      rw [s.fetch_of_empty (Bool.eq_false_iff.mpr hopen) hm, s.coreTurn_of_busy hb]
    have hstep := step_eq_microStep h hb (by rw [hf])
    rwa [taken_eq_self (by rw [hf, hm])] at hstep

/-! ## What a micro-operation of a pixel step leaves alone -/

theorem SameBesidePixelStep.refl (s : State) : SameBesidePixelStep s s :=
  ⟨rfl, rfl, rfl, rfl, rfl, rfl, rfl, rfl, rfl, rfl, rfl, rfl⟩

theorem SameBesidePixelStep.trans {s t u : State} (h : SameBesidePixelStep s t) (h' : SameBesidePixelStep t u) :
    SameBesidePixelStep s u := by
  unfold SameBesidePixelStep at *
  simp_all

theorem sameBesidePixelStep_microStep {s : State} (h15 : s.uop ≠ 15) :
    SameBesidePixelStep s s.microStep ∧ s.microStep.moves = s.moves := by
  rcases uop_kinds s.uop with hk | hk | hk | hk
  · obtain ⟨dp, hdp⟩ := exists_microEffect_eq s hk
    rw [State.microStep_of_lt hk, hdp]
    exact ⟨.refl s, rfl⟩
  · rw [State.microStep_of_store hk, s.storePixel_eq]
    exact ⟨.refl s, rfl⟩
  · rw [State.microStep_of_advance hk]
    exact ⟨.refl s, rfl⟩
  · exact absurd hk h15

/-- No entry but `P` is written, and that not where it is decided. -/
theorem gridEntry_microStep {s : State} {i : Nat} (hi : i ≠ s.p.toNat ∨ s.p.toNat ∈ s.settled) :
    s.microStep.gridEntry i = s.gridEntry i := by
  rcases uop_kinds s.uop with hk | hk | hk | hk
  · obtain ⟨dp, hdp⟩ := exists_microEffect_eq s hk
    rw [State.microStep_of_lt hk, hdp]
    rfl
  · rw [State.microStep_of_store hk]
    rcases s.storePixel_cases with ⟨-, he⟩ | ⟨hout, he⟩ <;> rw [he]
    · rfl
    · exact (s.gridEntry_memWrite _ _ _).trans (if_neg (hi.resolve_right hout))
  · rw [State.microStep_of_advance hk]
    rfl
  · rw [State.microStep_of_finish hk]
    rfl

theorem uop_microStep {s : State} (hk : s.uop.toNat < 14) :
    s.microStep.uop.toNat = s.uop.toNat + 1 ∧ s.microStep.p = s.p := by
  rcases uop_kinds s.uop with hlt | h13 | h14 | h15
  · obtain ⟨dp, hdp⟩ := exists_microEffect_eq s hlt
    rw [State.microStep_of_lt hlt, hdp]
    exact ⟨toNat_succ_of_lt hk, rfl⟩
  · rw [State.microStep_of_store h13, h13]
    exact ⟨rfl, s.storePixel_p⟩
  · rw [h14] at hk; exact absurd hk (by decide)
  · rw [h15] at hk; exact absurd hk (by decide)

/-! ## Fifteen steps -/

/-- `u` is `k` micro-operations into the pixel step that begins in `s`. -/
structure UnderWay (s : State) (k : Nat) (u : State) : Prop where
  inv : Inv u
  values : ValuesStaged u
  uop : u.uop.toNat = k
  p : u.p = s.p
  same : SameBesidePixelStep s u
  moves : u.moves = s.moves
  grid : ∀ i, i ≠ s.p.toNat ∨ s.p.toNat ∈ s.settled → u.gridEntry i = s.gridEntry i

theorem UnderWay.status {s u : State} {k : Nat} (h : UnderWay s k u) : u.status = s.status := h.same.1

theorem UnderWay.settled {s u : State} {k : Nat} (h : UnderWay s k u) : u.settled = s.settled := by
  obtain ⟨-, -, -, -, -, -, -, -, -, -, -, hsettled⟩ := h.same
  exact hsettled

theorem UnderWay.microStep {s u : State} {k : Nat} (h : UnderWay s k u) (hb : s.status = .busy) (hk : k < 14) :
    UnderWay s (k + 1) u.microStep := by
  have hbu : u.status = .busy := h.status.trans hb
  have hlt : u.uop.toNat < 14 := by rw [h.uop]; exact hk
  obtain ⟨hsame, hmoves⟩ := sameBesidePixelStep_microStep ((uop_ne_fifteen_iff _).mpr hlt.le)
  obtain ⟨huop, hp⟩ := uop_microStep hlt
  exact {
    inv := inv_microStep h.inv hbu
    values := valuesStaged_microStep h.inv h.values hbu
    uop := by rw [huop, h.uop]
    p := hp.trans h.p
    same := h.same.trans hsame
    moves := hmoves.trans h.moves
    grid := fun i hi => (gridEntry_microStep (by rwa [h.p, h.settled])).trans (h.grid i hi) }

theorem underWay_iterate {s : State} (h : Inv s) (hb : s.status = .busy) (hu : s.uop = 0) {k : Nat} (hk : k ≤ 14) :
    UnderWay s k (State.microStep^[k] s) := by
  induction k with
  | zero =>
    have ho : s.pixelStepOpen = false := by
      rw [s.pixelStepOpen_eq_false_iff]
      exact fun hn => hn.2.1 hu
    exact ⟨h, valuesStaged_of_not_open ho, by rw [Function.iterate_zero_apply, hu]; rfl, rfl, .refl s, rfl,
      fun _ _ => rfl⟩
  | succ k ih =>
    rw [Function.iterate_succ_apply']
    exact (ih (by omega)).microStep hb hk

theorem UnderWay.pixelStepOpen {s u : State} {k : Nat} (h : UnderWay s k u) (hb : s.status = .busy) (h0 : 0 < k)
    (hk : k ≤ 14) : u.pixelStepOpen = true := by
  refine u.pixelStepOpen_iff.mpr ⟨h.status.trans hb, fun hn => ?_, (uop_ne_fifteen_iff _).mpr (by rwa [h.uop])⟩
  have huop := h.uop
  rw [hn] at huop
  exact h0.ne huop

/-- From a boundary at CORE's turn, fifteen steps are the fifteen micro-operations. -/
theorem runSteps_fifteen {s : State} {ms : List Move} (h : Inv s) (hb : s.status = .busy) (hu : s.uop = 0)
    (hm : CoreTurnNext s ms) : runSteps 15 s = .next (State.microStep^[15] (s.setMoves ms)) := by
  have hf : s.fetch = (.word (.uop s.uop), ms) := fetch_of_selected hb (.inr ⟨.inl hu, hm⟩)
  have hfirst : step s = .next (s.setMoves ms).microStep := by
    rw [step_eq_microStep h hb (by rw [hf]), State.taken, hf]
  rw [runSteps_succ_of_step hfirst]
  refine runSteps_eq_iterate (n := 14) (fun k hk => ?_)
  have hway : UnderWay (s.setMoves ms) (k + 1) (State.microStep^[k + 1] (s.setMoves ms)) :=
    underWay_iterate (s := s.setMoves ms) h hb hu hk
  exact step_of_open hway.inv (hway.pixelStepOpen hb k.succ_pos hk)

/-- Settles O52: fourteen micro-operations stage and store the pixel, and ADVANCE counts it. -/
theorem fifteenStepsAreOnePixelStep : Obligations.FifteenStepsAreOnePixelStep := by
  intro s ms h hb hu hm
  have hway : UnderWay (s.setMoves ms) 14 (State.microStep^[14] (s.setMoves ms)) :=
    underWay_iterate (s := s.setMoves ms) h hb hu le_rfl
  have hrun := runSteps_fifteen h hb hu hm
  rw [Function.iterate_succ_apply'] at hrun
  generalize State.microStep^[14] (s.setMoves ms) = u at hway hrun
  have hk : u.uop = 14 := BitVec.eq_of_toNat_eq hway.uop
  have hbu : u.status = .busy := hway.status.trans hb
  have hp : u.p = s.p := hway.p
  have hframe : u.frameSize = s.frameSize := by
    obtain ⟨-, hw, hh, -⟩ := hway.same
    rw [State.frameSize, hw, hh]
    rfl
  have hl := hway.inv.2.2.1
  have hlt := (hl.p_lt_iff hbu).mpr (by rw [hk]; decide)
  have hinc := State.toNat_p_succ hlt (hl.frameSize_lt hbu)
  rw [hp] at hinc
  refine ⟨u.microStep, hrun, ?_⟩
  rw [State.microStep_of_advance hk, hp]
  refine ⟨hway.same, hway.moves, hinc, ?_, ?_, fun i hi => hway.grid i (.inl hi)⟩
  · rw [State.setUop_uop, hinc, hframe]
    rfl
  · change u.gridEntry s.p.toNat = _
    split
    · next hs => exact hway.grid _ (.inr hs)
    · next hs =>
      obtain ⟨-, hstaged⟩ := (valuesStaged_iff u).mp hway.values hbu (by rw [hk]; decide)
      have hentry := hstaged (by rw [hk]; decide) (by rw [hp, hway.settled]; exact hs)
      rw [← u.pixelWord_p, hp] at hentry
      refine hentry.trans (congrArg some ?_)
      obtain ⟨-, hw, hh, -, -, -, -, hfb, -⟩ := hway.same
      exact State.pixelWord_congr (s := s) hw hh (fun a _ => congrFun (State.frameByte_congr hfb) a)

/-! ## A conversion -/

/-- How many micro-operations of the conversion under way are done: the finish step, id 15, is selected at the end of
the last pixel step. -/
def State.progress (s : State) : Nat := 15 * s.p.toNat + s.uop.toNat % 15

theorem progress_microStep {s : State} (h : Inv s) (hb : s.status = .busy) (h15 : s.uop ≠ 15) :
    s.microStep.progress = s.progress + 1 := by
  have hl := h.2.2.1
  unfold State.progress
  rcases Nat.lt_or_eq_of_le ((uop_ne_fifteen_iff _).mp h15) with hlt | heq
  · obtain ⟨huop, hp⟩ := uop_microStep hlt
    rw [hp]
    omega
  · have hinc := State.toNat_p_succ ((hl.p_lt_iff hb).mpr h15) (hl.frameSize_lt hb)
    have hboundary : s.microStep.p = s.p + 1 ∧ s.microStep.uop.toNat % 15 = 0 := by
      rw [State.microStep_of_advance (BitVec.eq_of_toNat_eq heq), State.setUop_uop]
      exact ⟨rfl, by split <;> rfl⟩
    obtain ⟨hp, huop⟩ := hboundary
    rw [hp]
    omega

/-- `u` is `n` micro-operations into the conversion that begins in `s`, with the host leaving CORE alone. -/
structure Converting (s : State) (n : Nat) (u : State) : Prop where
  inv : ConversionInv u
  progress : u.progress = n
  same : SameBesidePixelStep s u
  moves : u.moves = []
  grid : ∀ i, s.frameSize ≤ i → u.gridEntry i = s.gridEntry i

section
variable {s u : State} {n : Nat} (h : Converting s n u) (hb : s.status = .busy)
include h

theorem Converting.frameSize : u.frameSize = s.frameSize := by
  obtain ⟨-, hw, hh, -⟩ := h.same
  rw [State.frameSize, hw, hh, State.frameSize]

include hb

theorem Converting.status : u.status = .busy := h.same.1.trans hb

theorem Converting.step : step u = .next u.microStep := step_of_no_moves h.inv.1 (h.status hb) h.moves

/-- The finish step is selected when the fifteen micro-operations of every pixel are done, and not before. -/
theorem Converting.pixelStep_selected_iff : u.uop ≠ 15 ↔ n < 15 * s.frameSize := by
  have hl := h.inv.1.2.2.1
  have hlt := hl.p_lt_iff (h.status hb)
  obtain ⟨-, -, hle, -⟩ := hl (h.status hb)
  have hprogress := h.progress
  rw [State.progress] at hprogress
  rw [← hlt, ← h.frameSize]
  omega

theorem Converting.microStep (hn : n < 15 * s.frameSize) : Converting s (n + 1) u.microStep := by
  have hbu := h.status hb
  have h15 := (h.pixelStep_selected_iff hb).mpr hn
  obtain ⟨hsame, hmoves⟩ := sameBesidePixelStep_microStep h15
  have hp := (h.inv.1.2.2.1.p_lt_iff hbu).mpr h15
  rw [h.frameSize] at hp
  exact {
    inv := conversionInv_microStep h.inv hbu
    progress := by rw [progress_microStep h.inv.1 hbu h15, h.progress]
    same := h.same.trans hsame
    moves := hmoves.trans h.moves
    grid := fun i hi => (gridEntry_microStep (.inl (Nat.ne_of_gt (Nat.lt_of_lt_of_le hp hi)))).trans (h.grid i hi) }

end

/-- The state after START (R111). -/
theorem converting_startCommand {s : State} (h : Inv s) (hb : s.status ≠ .busy) (hm : s.moves = [])
    (hd : s.dimsPass = true) (hs : s.sizePass = true) : Converting s.startCommand 0 s.startCommand := by
  have hinv := conversionInv_startCommand (conversionInv_of_not_busy h hb)
  rw [State.startCommand_of_pass hb hd hs] at hinv ⊢
  exact ⟨hinv, rfl, .refl _, hm, fun _ _ => rfl⟩

theorem converting_iterate {s : State} (h : Converting s 0 s) (hb : s.status = .busy) {n : Nat}
    (hn : n ≤ 15 * s.frameSize) : Converting s n (State.microStep^[n] s) := by
  induction n with
  | zero => exact h
  | succ n ih =>
    rw [Function.iterate_succ_apply']
    exact (ih (by omega)).microStep hb hn

theorem runSteps_of_converting {s : State} (h : Converting s 0 s) (hb : s.status = .busy) {n : Nat}
    (hn : n ≤ 15 * s.frameSize + 1) : runSteps n s = .next (State.microStep^[n] s) :=
  runSteps_eq_iterate (fun _ hk => (converting_iterate h hb (by omega)).step hb)

/-- The state a conversion ends in, when it began in `s` with no entry decided (R182). -/
theorem finish_of_converting {s u : State} (h : Converting s (15 * s.frameSize) u) (hb : s.status = .busy)
    (hs : s.settled = []) :
    u.microStep = (u.setStatus .done).setUop 0 ∧
      ∀ i, i < s.frameSize → u.gridEntry i = some (s.pixelWord i) := by
  have h15 : u.uop = 15 := not_not.mp (fun hn => (Nat.lt_irrefl _) ((h.pixelStep_selected_iff hb).mp hn))
  have hbu := h.status hb
  obtain ⟨-, -, -, hfin⟩ := h.inv.1.2.2.1 hbu
  refine ⟨State.microStep_of_finish h15, fun i hi => ?_⟩
  obtain ⟨-, hw, hh, -, -, -, -, hfb, -, -, -, hsettled⟩ := h.same
  have hout : i ∉ u.settled := by rw [hsettled, hs]; exact List.not_mem_nil
  rw [gridEntry_at_finish h.inv hbu (hfin.mp h15) (by rwa [h.frameSize]) hout]
  exact congrArg some (State.pixelWord_congr hw hh (fun a _ => congrFun (State.frameByte_congr hfb) a))

/-- In raster order, entry `x + y × W` is of the pixel in column `x` and row `y` (R57). -/
theorem State.pixelWord_of_lt (s : State) {x y : Nat} (hx : x < s.width.toNat) :
    s.pixelWord (x + y * s.width.toNat) = (pixelAt s.frameByte s.width.toNat s.height.toNat x y).word := by
  have h0 : 0 < s.width.toNat := by omega
  rw [State.pixelWord, pixelWordAt, Nat.add_mul_mod_self_right, Nat.mod_eq_of_lt hx, Nat.add_mul_div_right _ _ h0,
    Nat.div_eq_of_lt hx, Nat.zero_add]

/-- A START that passes its checks, first and alone in the queue (R111). -/
theorem step_of_start {s : State} {d : Word} (hb : s.status ≠ .busy) (hd : d.toNat % 2 = 1)
    (hm : s.moves = [.bus 8 d]) :
    step s = .next (s.setMoves []).startCommand := by
  have ho : s.pixelStepOpen = false := s.pixelStepOpen_eq_false_iff.mpr (fun hn => hb hn.1)
  rw [step_of_bus ho hm, exec_decode_bus_ctrl, decode_ctrl_of_odd hd]
  rfl

/-- Settles O53: START begins a conversion, the micro-operations of its pixel steps keep the invariant and STATE, and
when they are done FINISH is selected, with every entry of the frame stored. -/
theorem conversionFillsTheGridAndEndsInDone : Obligations.ConversionFillsTheGridAndEndsInDone := by
  intro s d h hb hd hm hdims hsize
  have hs : (s.setMoves []).sizePass = true := (s.setMoves []).sizePass_iff.mpr hsize
  have hstart := step_of_start hb hd hm
  have hconv := converting_startCommand (s := s.setMoves []) h hb rfl hdims hs
  rw [State.startCommand_of_pass (s := s.setMoves []) hb hdims hs] at hstart hconv
  have hend := converting_iterate hconv rfl le_rfl
  have hrun := runSteps_of_converting hconv rfl le_rfl
  rw [Function.iterate_succ_apply'] at hrun
  obtain ⟨hfinish, hstored⟩ := finish_of_converting hend rfl rfl
  obtain ⟨-, hw, hh, hlen, hcode, hactual, hexpected, hfb, -⟩ := hend.same
  rw [hfinish, ← runSteps_succ_of_step hstart, Nat.add_right_comm, Nat.add_comm _ 1] at hrun
  refine ⟨_, hrun, fun k u hk1 hk hu => ?_, rfl, hcode, hactual, hexpected, hw, hh, hlen, hfb, fun x y hx hy => ?_,
    hend.grid⟩
  · obtain ⟨j, rfl⟩ := Nat.exists_eq_add_of_le' hk1
    have hj : j ≤ 15 * (s.width.toNat * s.height.toNat) := Nat.le_of_succ_le_succ hk
    have hiter := runSteps_of_converting hconv rfl (n := j) (Nat.le_succ_of_le hj)
    rw [runSteps_succ_of_step hstart, hiter] at hu
    rw [← Host.Outcome.next.inj hu]
    exact (converting_iterate hconv rfl hj).status rfl
  · exact (hstored _ (lumaAddressAt_lt hx hy)).trans (congrArg some (State.pixelWord_of_lt _ hx))

end Sys2Proof.Machine
end
